-- ==== Sys2Proof/Word.lean ====
section
/-! DEFINITION. The word types of PBK-CORE and the three widths of a host bus access (spec R17, R70). -/

namespace Sys2Proof

/-- One symbol: a byte, which is also an element of GF(256) (R21, R150). -/
abbrev Byte := BitVec 8

/-- A 16-bit value: the CRC register and a block's checksum (R12, R130). -/
abbrev Half := BitVec 16

/-- A 32-bit register value or command word (R31, R100). -/
abbrev Word := BitVec 32

/-- The width of a host bus access: 8, 16 or 32 bits (R70). -/
inductive Width where
  | w8
  | w16
  | w32
  deriving DecidableEq, Repr

/-- The number of bytes an access of this width moves: the `n` of R72. -/
def Width.bytes : Width → Nat
  | .w8 => 1
  | .w16 => 2
  | .w32 => 4

end Sys2Proof
end

