-- ==== Sys2Proof/Syntax.lean ====
section
/-! DEFINITION. The instructions of PBK-CORE: the ten commands of the opcode map (R4, R102).  A command word holds an
opcode and nothing else; every operand stands in ARG0 to ARG2, CODEC_CFG or BUF (R100, R104), so no constructor
has an argument. -/

namespace Sys2Proof

/-- A command, one constructor per row of the opcode table (R102). -/
inductive Instr where
  /-- CRC16: the checksum of a span of BUF (R135). -/
  | crc16
  /-- GF_MUL: field multiply (R160). -/
  | gfMul
  /-- GF_DIV: field divide (R161). -/
  | gfDiv
  /-- POLY_EVAL: evaluate a polynomial held in BUF (R162). -/
  | polyEval
  /-- RS_ENCODE: the parity of a message in BUF (R180). -/
  | rsEncode
  /-- RS_DECODE: correct a codeword in BUF in place (R181). -/
  | rsDecode
  /-- BUILD_DATA: format a data block in BUF (R220). -/
  | buildData
  /-- BUILD_SUPER: format a superblock in BUF (R221). -/
  | buildSuper
  /-- VERIFY: verify and repair a block in BUF (R222). -/
  | verify
  /-- BLOCK_KIND: classify a block by its address (R223). -/
  | blockKind
  deriving DecidableEq, Repr

end Sys2Proof
end

