-- ==== Sys2Proof/Decode.lean ====
section
/-! DEFINITION. Decoding a command word, total on every 32-bit word and refusing the reserved ones by name
(R101 to R103), and the encoder written from the same table. -/

namespace Sys2Proof

/-- Why a command word is reserved (R103). -/
inductive DecodeReject where
  /-- Some bit of `w[31:8]` is set, whatever the low byte. -/
  | reservedBits
  /-- `w[31:8]` is 0 and the opcode is 0x00 or 0x0B to 0xFF. -/
  | reservedOpcode
  deriving DecidableEq, Repr

/-- The field OPC, bits 7:0 (R101). -/
def opcField (w : Word) : Byte := w.extractLsb' 0 8

/-- The field RSV, bits 31:8, which must be 0 (R101). -/
def rsvField (w : Word) : BitVec 24 := w.extractLsb' 8 24

/-- The opcode map, from the opcode to its command (R102). -/
def ofOpcode (opc : Byte) : Option Instr :=
  match opc.toNat with
  | 0x01 => some .crc16
  | 0x02 => some .gfMul
  | 0x03 => some .gfDiv
  | 0x04 => some .polyEval
  | 0x05 => some .rsEncode
  | 0x06 => some .rsDecode
  | 0x07 => some .buildData
  | 0x08 => some .buildSuper
  | 0x09 => some .verify
  | 0x0A => some .blockKind
  | _ => none

/-- The command a word selects, or why it is reserved (R101, R103). -/
def decodeWord (w : Word) : Except DecodeReject Instr :=
  if rsvField w = 0#24 then
    match ofOpcode (opcField w) with
    | some i => .ok i
    | none => .error .reservedOpcode
  else .error .reservedBits

/-- The opcode map, from the command to its opcode (R102). -/
def opcodeOf : Instr → Byte
  | .crc16 => 0x01#8
  | .gfMul => 0x02#8
  | .gfDiv => 0x03#8
  | .polyEval => 0x04#8
  | .rsEncode => 0x05#8
  | .rsDecode => 0x06#8
  | .buildData => 0x07#8
  | .buildSuper => 0x08#8
  | .verify => 0x09#8
  | .blockKind => 0x0A#8

/-- The command word of a command: RSV is 0 (R101). -/
def encode (i : Instr) : Word := (0#24 ++ opcodeOf i : BitVec 32)

/-- The 32-bit word of which the low `nbits` bits are `w`'s and the others 0. -/
def tableWord (nbits w : Nat) : Word := BitVec.ofNat 32 (w % 2 ^ nbits)

/-- The command the decoder reads from a word numbered as `spec/opcode_table.json` numbers it. -/
def decodeTableWord (nbits w : Nat) : Option Instr :=
  match decodeWord (tableWord nbits w) with
  | .ok i => some i
  | .error _ => none

end Sys2Proof
end

