-- ==== Sys2Proof/Config.lean ====
section
/-! DEFINITION. What is fixed for one PBK-CORE: the constants of the block format (R12, R13), the parameters
the spec leaves open (R14, R16, R70), the reference profile PB-REF (R15) and the free values. -/

namespace Sys2Proof

/-! ### Constants of the block format -/

/-- Payload bytes of a block (R13). -/
abbrev Config.ndata : Nat := 90

/-- Parity bytes of a block (R12). -/
abbrev Config.neccBlk : Nat := 32

/-- Bytes of a block: address, payload, checksum, parity (R13). -/
abbrev Config.blockSize : Nat := 128

/-- Bytes the CRC of a block covers: address and payload (R202). -/
abbrev Config.crcLen : Nat := 94

/-- Bytes the parity of a block covers: address, payload and checksum (R13, R202). -/
abbrev Config.protLen : Nat := 96

/-- Full codeword length of the block code (R13). -/
abbrev Config.blkN : Nat := 255

/-- Implicit leading zero symbols of a block codeword (R13). -/
abbrev Config.blkPad : Nat := 127

/-- Bytes of a superblock's name field (R12). -/
abbrev Config.nameLen : Nat := 64

/-- The mask combined with a block's CRC before it is stored (R12). -/
abbrev Config.crcMask : Half := 0x55AA#16

/-- The address that marks a superblock (R12). -/
abbrev Config.sentinel : Word := 0xFFFFFFFF#32

/-- The ID register: the ASCII bytes of PBK1 (R32). -/
abbrev Config.idWord : Word := 0x314B4250#32

/-- The value CODEC_CFG resets to: the block code (255, 32, 127) (R46). -/
abbrev Config.codecCfgReset : Word := 0x007F20FF#32

/-- The size of BUF the spec decides (R16). -/
abbrev Config.bufSize : Nat := 512

/-- The bytes of the register window (R70). -/
abbrev Config.windowSize : Nat := 4096

/-- The window offset at which BUF begins (R71). -/
abbrev Config.bufOffset : Nat := 0x800

/-! ### Parameters -/

/-- The named parameters of the hardware: the seven the source leaves open (R14), the size of BUF (R16)
and the host address of the window (R70).  No step changes them. -/
structure Params where
  /-- The CRC's generating polynomial, with the `x^16` term implicit. -/
  crcPoly : Half
  /-- The CRC register's initial value. -/
  crcInit : Half
  /-- Whether the CRC is computed least significant bit first. -/
  crcReflect : Bool
  /-- The value combined with the CRC register at the end. -/
  crcXorOut : Half
  /-- The field polynomial of GF(256), all nine bits. -/
  rsGfPoly : BitVec 9
  /-- The index of the generator's first root. -/
  rsFcr : Nat
  /-- The spacing of the generator's roots. -/
  rsPrim : Nat
  /-- The number of bytes of BUF. -/
  bufSize : Nat
  /-- The host address of the register window. -/
  pbkBase : Nat
  deriving DecidableEq, Repr, Inhabited

/-- The reference profile PB-REF with the spec's BUF size (R15, R16).  The spec takes it from general knowledge
and uses it for its vectors only; this model uses it for tests, and as the stand-in for an implementation
whose parameters break the constraints of R14 (log entry 2).  PB-REF gives no PBK_BASE (D50 leaves it open): that it is 0
here is the model's choice, a DESIGN CHOICE (log entry 2). -/
def Params.pbRef : Params where
  crcPoly := 0x1021#16
  crcInit := 0x0000#16
  crcReflect := false
  crcXorOut := 0x0000#16
  rsGfPoly := 0x187#9
  rsFcr := 112
  rsPrim := 11
  bufSize := 512
  pbkBase := 0

/-! ### Free values -/

/-- The parameters of the implementation at hand: nothing is known of them (R14: named arguments of the model). -/
opaque Config.implParams : Params

/-- The draws: every byte the spec calls unspecified is this function at an index of its own, taken from a
counter of `State` (R55, R74, R273). -/
opaque Config.freeByte : Nat → Byte

end Sys2Proof
end

