-- ==== Sys2Proof/Machine/Access.lean ====
section
/-! DEFINITION. Which host bus accesses PBK-CORE has a behaviour for (R70 to R75, R78), and where an access lands. -/

namespace Sys2Proof.Machine

/-- The offset lies in the 4096-byte register window (R70). -/
def accessInWindow (off : Nat) : Bool := decide (off < Config.windowSize)

/-- The access is aligned to its width (R78). -/
def accessAligned (w : Width) (off : Nat) : Bool := decide (off % w.bytes = 0)

/-- Offsets below the BUF window are reached by 32-bit accesses only (R73, R78). -/
def accessWidthAllowed (w : Width) (off : Nat) : Bool :=
  decide (Config.bufOffset ≤ off) || decide (w = .w32)

/-- The access does not cross the end of the BUF window (R78). -/
def accessWithinBufEnd (bufSize : Nat) (w : Width) (off : Nat) : Bool :=
  decide (off + w.bytes ≤ Config.bufOffset + bufSize) || decide (Config.bufOffset + bufSize ≤ off)

/-- The access reaches BUF bytes and nothing else (R72). -/
def accessReachesBuf (bufSize : Nat) (w : Width) (off : Nat) : Bool :=
  decide (Config.bufOffset ≤ off) && decide (off + w.bytes ≤ Config.bufOffset + bufSize)

/-- The window offset a host address stands for, where PBK_BASE places the window in the host's address map
(R70); none outside the window. -/
def windowOffset (p : Params) (addr : Nat) : Option Nat :=
  if p.pbkBase ≤ addr ∧ addr < p.pbkBase + Config.windowSize then some (addr - p.pbkBase) else none

end Sys2Proof.Machine
end

