-- ==== Sys2Proof/Machine/Tables.lean ====
section
/-! DEFINITION. The three lookup tables the engine builds once after each reset (R52, R131, R152), each a function of
the parameters and of nothing else. -/

namespace Sys2Proof.Machine

/-- The lookup tables of R52.  After reset they hold nothing: that is `Tables.invalid`. -/
structure Tables where
  /-- CRC_TABLE[0..255]. -/
  crc : List Half
  /-- GF_EXP[0..254]. -/
  exp : List Byte
  /-- GF_LOG[1..255]: the entry of `a` stands at index `a - 1`, so there is no entry of 0 (R152). -/
  log : List Byte
  deriving DecidableEq, Repr

/-- The tables before initialisation: no entry is valid (R52, R55). -/
def Tables.invalid : Tables where
  crc := []
  exp := []
  log := []

/-- `reflect16`: bit j moves to bit 15 - j (R131). -/
def reflect16 (v : Half) : Half := v.reverse

/-- One shift of the table's loop when the CRC is not reflected (R131). -/
def crcShiftLeft (poly c : Half) : Half :=
  if c.getLsbD 15 then (c <<< 1) ^^^ poly else c <<< 1

/-- One shift of the table's loop when the CRC is reflected; `rp` is the reflected polynomial (R131). -/
def crcShiftRight (rp c : Half) : Half :=
  if c.getLsbD 0 then (c >>> 1) ^^^ rp else c >>> 1

/-- CRC_TABLE[i] (R131). -/
def crcTableEntry (p : Params) (i : Nat) : Half :=
  if p.crcReflect then (crcShiftRight (reflect16 p.crcPoly))^[8] (BitVec.ofNat 16 i)
  else (crcShiftLeft p.crcPoly)^[8] (BitVec.ofNat 16 i <<< 8)

/-- CRC_TABLE[0..255] (R131). -/
def crcTable (p : Params) : List Half := (List.range 256).map (crcTableEntry p)

/-- `xtime`: multiplication by z, reduced by the field polynomial (R152). -/
def xtime (poly : BitVec 9) (a : Byte) : Byte :=
  (a <<< 1) ^^^ (if a.getLsbD 7 then poly.extractLsb' 0 8 else 0#8)

/-- `a`, `z·a`, `z²·a`, …: `n` entries. -/
def xtimeChain (poly : BitVec 9) : Nat → Byte → List Byte
  | 0, _ => []
  | n + 1, a => a :: xtimeChain poly n (xtime poly a)

/-- GF_EXP[0..254]: `GF_EXP[0] = 1`, `GF_EXP[i+1] = xtime(GF_EXP[i])` (R152). -/
def gfExpTable (poly : BitVec 9) : List Byte := xtimeChain poly 255 1#8

/-- GF_LOG[a] for a nonzero byte: the index at which GF_EXP holds it (R152). -/
def gfLogEntry (poly : BitVec 9) (a : Byte) : Byte :=
  BitVec.ofNat 8 ((gfExpTable poly).findIdx (fun e => e == a))

/-- GF_LOG[1..255] (R152). -/
def gfLogTable (poly : BitVec 9) : List Byte :=
  (List.range 255).map fun j => gfLogEntry poly (BitVec.ofNat 8 (j + 1))

/-- The tables the initialisation step builds (R274). -/
def Tables.build (p : Params) : Tables where
  crc := crcTable p
  exp := gfExpTable p.rsGfPoly
  log := gfLogTable p.rsGfPoly

/-- The CRC_TABLE entry at a byte (R132: table indexes are 8 bits). -/
def Tables.crcAt (T : Tables) (i : Byte) : Half := T.crc.getD i.toNat 0#16

/-- GF_EXP[i] (R152). -/
def Tables.expAt (T : Tables) (i : Nat) : Byte := T.exp.getD i 0#8

/-- GF_LOG[a], read only for a nonzero byte (R152).  GF_LOG[0] is not defined: that this answers the entry of 1 there is the
model's choice, a DESIGN CHOICE (log entry 5). -/
def Tables.logAt (T : Tables) (a : Byte) : Nat := (T.log.getD (a.toNat - 1) 0#8).toNat

end Sys2Proof.Machine
end

