-- ==== Sys2Proof/WellFormed.lean ====
section
/-! DEFINITION. What is well formed: a command (R101), the parameters of the hardware (R14, R16, R70) and a host bus
access (R78). -/

namespace Sys2Proof

open Machine

/-- Every command is well formed: a command word has no operand field that could hold a bad value (R101, R106). -/
def Instr.wellFormed : Instr → Bool
  | .crc16 => true
  | .gfMul => true
  | .gfDiv => true
  | .polyEval => true
  | .rsEncode => true
  | .rsDecode => true
  | .buildData => true
  | .buildSuper => true
  | .verify => true
  | .blockKind => true

/-- RS_GFPOLY has degree 8: its bit 8 is set (R14). -/
def Params.gfPolyDegreeOk (p : Params) : Bool := p.rsGfPoly.getLsbD 8

/-- RS_GFPOLY is primitive: the powers of z run through 255 values before they come back to 1 (R14, R151). -/
def Params.gfPolyPrimitive (p : Params) : Bool :=
  (gfExpTable p.rsGfPoly).tail.all (fun e => e != 1#8)
    && xtime p.rsGfPoly ((gfExpTable p.rsGfPoly).getD 254 0#8) == 1#8

/-- RS_FCR is in 0..254 (R14). -/
def Params.fcrOk (p : Params) : Bool := decide (p.rsFcr ≤ 254)

/-- RS_PRIM is in 1..254 and has no factor in common with 255 (R14). -/
def Params.primOk (p : Params) : Bool :=
  decide (1 ≤ p.rsPrim) && decide (p.rsPrim ≤ 254) && decide (Nat.gcd p.rsPrim 255 = 1)

/-- BUF_SIZE is within the bounds of R16. -/
def Params.bufSizeOk (p : Params) : Bool :=
  decide (Config.blockSize ≤ p.bufSize) && decide (255 ≤ p.bufSize) && decide (p.bufSize ≤ 2048)
    && decide (p.bufSize % 4 = 0)

/-- PBK_BASE is 4096-byte aligned (R70). -/
def Params.baseAligned (p : Params) : Bool := decide (p.pbkBase % Config.windowSize = 0)

/-- The parameters meet every constraint the spec puts on them (R14, R16, R70). -/
def Params.wellFormed (p : Params) : Bool :=
  p.gfPolyDegreeOk && p.gfPolyPrimitive && p.fcrOk && p.primOk && p.bufSizeOk && p.baseAligned

/-- The parameters of the implementation, where they meet the constraints; the spec has no meaning for others
(R150), and there PB-REF stands in (log entry 2). -/
def Config.params : Params :=
  if Config.implParams.wellFormed then Config.implParams else Params.pbRef

/-- A host bus access that PBK-CORE has a behaviour for (R70, R78). -/
def accessWellFormed (bufSize : Nat) (w : Width) (off : Nat) : Bool :=
  accessInWindow off && accessAligned w off && accessWidthAllowed w off && accessWithinBufEnd bufSize w off

end Sys2Proof
end

