-- ==== Sys2Proof/Machine/State.lean ====
section
/-! DEFINITION. The state of PBK-CORE (R30 to R55), its state after a hard reset (R55), and the ways a step can
stop. -/

namespace Sys2Proof.Machine

/-- BUF: the bytes whose content is known, as (offset, byte) pairs with the offsets strictly rising.  An offset
that is not listed has no value of its own: it still holds the unspecified byte of the last hard reset
(R55), which `State.bufByte` draws. -/
abbrev Memory := List Host.Cell

/-- The canonical form of BUF: offsets strictly rising, and every offset inside BUF (R50). -/
abbrev Memory.wf (bufSize : Nat) (m : Memory) : Prop :=
  (m.map Prod.fst).Pairwise (· < ·) ∧ ∀ c ∈ m, c.1 < bufSize

/-- The error codes of R240.  The codes 0x08 to 0xFF are reserved and never written, so they have no constructor. -/
inductive ErrCode where
  /-- 0x00, success. -/
  | eNone
  /-- 0x01, CODEC_CFG is invalid. -/
  | eConfig
  /-- 0x02, Reed-Solomon decoding failed. -/
  | eUncorrectable
  /-- 0x03, decoding succeeded and the checksum is bad. -/
  | eChecksum
  /-- 0x04, CMD was written before the tables were built. -/
  | eNotReady
  /-- 0x05, the command word is reserved. -/
  | eBadOpcode
  /-- 0x06, a span does not fit in BUF. -/
  | eRange
  /-- 0x07, the operation does not define the operand's value. -/
  | eArg
  deriving DecidableEq, Repr

/-- One turn of the interleaving of R85: which agent moves next, and for the host, what it does. -/
inductive Turn where
  /-- The engine takes a step (R30). -/
  | engine
  /-- The host reads `w` bits at a window offset (R70). -/
  | read (w : Width) (off : Nat)
  /-- The host writes the low `w` bits of `v` at a window offset (R70). -/
  | write (w : Width) (off : Nat) (v : Word)
  /-- The platform resets the block (R270, R271). -/
  | hardReset
  deriving DecidableEq, Repr

/-- Why the machine stops with a fault.  Raised by host accesses only; no command ever faults. -/
inductive Fault where
  /-- Raised by a host access at an offset of 0x1000 or more, which is outside PBK-CORE's only address space
  (R70).  Safe: the access does not reach PBK-CORE. -/
  | outsideWindow
  deriving DecidableEq, Repr

/-- Why the machine refuses.  Raised by the host accesses that R78 says a model has no step for; no command is refused. -/
inductive Refusal where
  /-- The instruction of that mnemonic has no meaning yet.  Safe.  No arm raises it: every command has a meaning. -/
  | notModelled (mnemonic : String)
  /-- Raised by a host access at an offset that is not a multiple of its width (R78).  Safe. -/
  | misaligned
  /-- Raised by an 8- or 16-bit host access below offset 0x800 (R78).  Safe. -/
  | subwordRegister
  /-- Raised by a host access that crosses the end of the BUF window (R78).  Safe. -/
  | crossesBufEnd
  deriving DecidableEq, Repr

/-- Everything the spec gives PBK-CORE, and five fields of the model's own, which stand last. -/
structure State where
  /-- The parameters of the hardware; no step changes them (R14, R16, R70). -/
  params : Params
  /-- STATUS.READY: the tables are initialised (R38). -/
  ready : Bool
  /-- STATUS.BUSY: a latched command waits for the engine (R38). -/
  busy : Bool
  /-- STATUS.DONE: the last command has finished (R38). -/
  done : Bool
  /-- STATUS.WIGN: a host write was ignored because BUSY was 1 (R38). -/
  wign : Bool
  /-- STATUS.ERR (R38, R240). -/
  err : ErrCode
  /-- ARG0 (R45). -/
  arg0 : Word
  /-- ARG1 (R45). -/
  arg1 : Word
  /-- ARG2 (R45). -/
  arg2 : Word
  /-- CODEC_CFG, whose bits 31:24 are never stored (R46). -/
  codecCfg : Word
  /-- RESULT0 (R37). -/
  result0 : Word
  /-- RESULT1 (R37). -/
  result1 : Word
  /-- PENDING, the latched command word (R49). -/
  pending : Word
  /-- The lookup tables (R52). -/
  tables : Tables
  /-- BUF (R50). -/
  mem : Memory
  /-- The model's own: the index of the draw that offset 0 of BUF holds since the last hard reset. -/
  bufDraw : Nat
  /-- The model's own: the index of the next unused draw. -/
  draws : Nat
  /-- The model's own: the turns still to come, first one first; the engine moves when none is left. -/
  script : List Turn
  /-- The model's own: what the last host read returned. -/
  busData : Option Word
  deriving DecidableEq, Repr

/-- The state right after a hard reset (R55, R271), with no turn waiting. -/
def State.reset : State where
  params := { Config.params with bufSize := Config.bufSize }
  ready := false
  busy := false
  done := false
  wign := false
  err := .eNone
  arg0 := 0x00000000#32
  arg1 := 0x00000000#32
  arg2 := 0x00000000#32
  codecCfg := Config.codecCfgReset
  result0 := 0x00000000#32
  result1 := 0x00000000#32
  pending := 0x00000000#32
  tables := Tables.invalid
  mem := []
  bufDraw := 0
  draws := Config.bufSize
  script := []
  busData := none

end Sys2Proof.Machine
end

