-- ==== Sys2Proof/Machine/Operands.lean ====
section
/-! DEFINITION. The operand forms of the commands (R104, R106), the codec configuration record (R46, R170) and the
little-endian serialisation (R18, R76). -/

namespace Sys2Proof.Machine

/-! ### Byte order -/

/-- Byte i of a register value: `v[8i+7:8i]` (R72). -/
def byteLane (v : Word) (i : Nat) : Byte := v.extractLsb' (8 * i) 8

/-- `LE16(v)` (R18). -/
def le16 (v : Half) : List Byte := [v.extractLsb' 0 8, v.extractLsb' 8 8]

/-- `LE32(v)` (R18). -/
def le32 (v : Word) : List Byte := [byteLane v 0, byteLane v 1, byteLane v 2, byteLane v 3]

/-- A byte sequence read as a little-endian number and zero-extended to 32 bits: `U16`, `U32` and the value of a
host read (R18, R72). -/
def ofLE : List Byte → Word
  | [] => 0#32
  | b :: bs => b.setWidth 32 ||| (ofLE bs <<< 8)

/-- `U16(s)` (R18). -/
def u16 (s : List Byte) : Half := (ofLE (s.take 2)).setWidth 16

/-- `U32(s)` (R18). -/
def u32 (s : List Byte) : Word := ofLE (s.take 4)

/-! ### Operands in ARG0 to ARG2 -/

/-- A whole-register operand: off, len, cnt, base, as an unbounded unsigned integer (R104, R106). -/
abbrev wholeOperand (r : Word) : Nat := r.toNat

/-- A byte operand: bits 7:0, the others ignored (R104). -/
def byteOperand (r : Word) : Byte := r.extractLsb' 0 8

/-- A byte result, zero-extended (R17). -/
def zextByte (b : Byte) : Word := b.setWidth 32

/-- A 16-bit result, zero-extended (R17). -/
def zextHalf (h : Half) : Word := h.setWidth 32

/-! ### The codec configuration -/

/-- A codec configuration: the record of R46 and R170. -/
structure Codec where
  /-- Full codeword length. -/
  n : Nat
  /-- Parity length. -/
  necc : Nat
  /-- Implicit leading zero symbols. -/
  pad : Nat
  deriving DecidableEq, Repr

/-- The record held in a CODEC_CFG word (R46). -/
def codecOfWord (w : Word) : Codec where
  n := (w.extractLsb' 0 8).toNat
  necc := (w.extractLsb' 8 8).toNat
  pad := (w.extractLsb' 16 8).toNat

/-- `cfg_valid` (R46). -/
def Codec.valid (c : Codec) : Bool := decide (1 ≤ c.necc) && decide (c.necc + c.pad + 1 ≤ c.n)

/-- The message length `k = N − NECC − PAD` of a valid configuration (R170). -/
abbrev Codec.msgLen (c : Codec) : Nat := c.n - c.necc - c.pad

/-- The transmitted codeword length `L = N − PAD` of a valid configuration (R170). -/
abbrev Codec.wordLen (c : Codec) : Nat := c.n - c.pad

/-- The correction bound `t = floor(NECC/2)` (R170). -/
abbrev Codec.bound (c : Codec) : Nat := c.necc / 2

/-- The block format's configuration (255, 32, 127) (R107, R183). -/
def blockCodec : Codec where
  n := Config.blkN
  necc := Config.neccBlk
  pad := Config.blkPad

/-- What a host write leaves in CODEC_CFG: bits 31:24 are not stored (R46). -/
def storedCodecCfg (v : Word) : Word := v &&& 0x00FFFFFF#32

/-- The configuration in CODEC_CFG. -/
def State.codec (s : State) : Codec := codecOfWord s.codecCfg

/-- ARG0 as an offset into BUF: off or base (R104). -/
abbrev State.offset (s : State) : Nat := wholeOperand s.arg0

/-- ARG1 as a length or count (R104). -/
abbrev State.length (s : State) : Nat := wholeOperand s.arg1

/-- A span of BUF fits: `off + len ≤ BUF_SIZE` on unbounded integers (R106, R246). -/
def State.spanFits (s : State) (off len : Nat) : Bool := decide (off + len ≤ s.params.bufSize)

end Sys2Proof.Machine
end

