-- ==== Sys2Proof/Machine/Flags.lean ====
section
/-! DEFINITION. STATUS as the host reads it (R38, R42), and the numbers of the error codes (R240).  There are no
arithmetic flags (R43). -/

namespace Sys2Proof.Machine

/-- The number STATUS.ERR holds for an error code (R240). -/
def ErrCode.code : ErrCode → Byte
  | .eNone => 0x00#8
  | .eConfig => 0x01#8
  | .eUncorrectable => 0x02#8
  | .eChecksum => 0x03#8
  | .eNotReady => 0x04#8
  | .eBadOpcode => 0x05#8
  | .eRange => 0x06#8
  | .eArg => 0x07#8

/-- STATUS.CFG_OK, computed from CODEC_CFG at every read (R42). -/
def State.cfgOk (s : State) : Bool := s.codec.valid

/-- The STATUS register, from bit 31 down: reserved, ERR, reserved, WIGN, CFG_OK, DONE, BUSY, READY (R38). -/
def State.statusWord (s : State) : Word :=
  (0#16 ++ s.err.code ++ 0#3 ++ BitVec.ofBool s.wign ++ BitVec.ofBool s.cfgOk ++ BitVec.ofBool s.done
    ++ BitVec.ofBool s.busy ++ BitVec.ofBool s.ready : BitVec 32)

end Sys2Proof.Machine
end

