-- ==== Sys2Proof/Machine/Ops.lean ====
section
/-! DEFINITION. The named operations over BUF and the registers: the engine's reads and writes of BUF (R82), how a command
ends (R249, R250), how a command is accepted or rejected (R47, R48, R276), the write region of a pending
command (R105), initialisation (R274) and the two resets (R271 to R273). -/

namespace Sys2Proof.Machine

/-! ### BUF -/

/-- The byte listed at an offset, if one is. -/
def Memory.lookup : Memory → Nat → Option Byte
  | [], _ => none
  | (k, v) :: m, a => if k = a then some v else Memory.lookup m a

/-- BUF with one byte stored, the offsets still rising. -/
def Memory.store : Memory → Nat → Byte → Memory
  | [], a, b => [(a, b)]
  | (k, v) :: m, a, b =>
    if a = k then (a, b) :: m
    else if a < k then (a, b) :: (k, v) :: m
    else (k, v) :: Memory.store m a b

/-- BUF with consecutive bytes stored from an offset on. -/
def Memory.storeAll : Memory → Nat → List Byte → Memory
  | m, _, [] => m
  | m, a, b :: bs => Memory.storeAll (Memory.store m a b) (a + 1) bs

/-- `BUF[a]`: the byte stored there, or the byte drawn for it at the last hard reset (R50, R55). -/
def State.bufByte (s : State) (a : Nat) : Byte :=
  match Memory.lookup s.mem a with
  | some b => b
  | none => Config.freeByte (s.bufDraw + a)

/-- `MemRead(a, n)` (R82). -/
def State.memRead (s : State) (a n : Nat) : List Byte := (List.range n).map fun i => s.bufByte (a + i)

/-- `MemWrite(a, |bs|, bs)` (R82). -/
def State.memWrite (s : State) (a : Nat) (bs : List Byte) : State :=
  { s with mem := Memory.storeAll s.mem a bs }

/-! ### How a command ends -/

/-- The end of a command: ERR, RESULT0 and RESULT1 are written, BUSY is cleared and DONE is set (R249, R250). -/
def State.endCommand (s : State) (e : ErrCode) (r0 r1 : Word) : State :=
  { s with err := e, busy := false, done := true, result0 := r0, result1 := r1 }

/-- `complete(r0, r1)` (R249). -/
def State.complete (s : State) (r0 r1 : Word) : State := s.endCommand .eNone r0 r1

/-- `raise E_NAME(info)`: the one way an error is taken.  There is no handler and no saved state; the command
ends with the code in ERR and both results 0 (R250, R252). -/
def State.raise (s : State) (e : ErrCode) : State := s.endCommand e 0#32 0#32

/-- `raise` after VERIFY has written RESULT0 and RESULT1, whose values stay (R250, R209). -/
def State.raiseWith (s : State) (e : ErrCode) (r0 r1 : Word) : State := s.endCommand e r0 r1

/-! ### Acceptance of a command word -/

/-- An accepted CMD write (R47). -/
def State.accept (s : State) (w : Word) : State := { s with pending := w, busy := true, done := false }

/-- A CMD write before the tables are built: not latched, reported at once (R276). -/
def State.rejectNotReady (s : State) : State :=
  { s with err := .eNotReady, done := true, result0 := 0#32, result1 := 0#32 }

/-- A host write that is ignored because BUSY is 1 (R48). -/
def State.ignoreWrite (s : State) : State := { s with wign := true }

/-! ### The write region of a pending command -/

/-- Offset `a` lies in the block at ARG0, and the block fits in BUF. -/
def State.inBlockAt (s : State) (lo hi a : Nat) : Bool :=
  s.spanFits s.offset Config.blockSize && decide (s.offset + lo ≤ a) && decide (a < s.offset + hi)

/-- The transmitted word at ARG0 fits in BUF, said without subtraction: `off + N − PAD ≤ BUF_SIZE`. -/
def State.wordFits (s : State) : Bool := decide (s.offset + s.codec.n ≤ s.params.bufSize + s.codec.pad)

/-- Whether a command with the operands in the state may write BUF[a] (R105): `off + k ≤ a` and `a < off + L` are
said without subtraction, so that they are also the rule's integers for an invalid configuration (log entry 8). -/
def regionOf (i : Instr) (s : State) (a : Nat) : Bool :=
  match i with
  | .crc16 => false
  | .gfMul => false
  | .gfDiv => false
  | .polyEval => false
  | .rsEncode => s.wordFits && decide (s.offset + s.codec.n ≤ a + s.codec.necc + s.codec.pad)
      && decide (a + s.codec.pad < s.offset + s.codec.n)
  | .rsDecode => s.wordFits && decide (s.offset ≤ a) && decide (a + s.codec.pad < s.offset + s.codec.n)
  | .buildData => s.inBlockAt 0 4 a || s.inBlockAt 94 128 a
  | .buildSuper => s.inBlockAt 0 4 a || s.inBlockAt 94 128 a
  | .verify => s.inBlockAt 0 128 a
  | .blockKind => false

/-- Whether the pending command may write BUF[a]; a reserved word writes nothing (R105, R243). -/
def State.inWriteRegion (s : State) (a : Nat) : Bool :=
  match decodeWord s.pending with
  | .ok i => regionOf i s a
  | .error _ => false

/-! ### Initialisation and reset -/

/-- The table initialisation step (R274). -/
def State.initTables (s : State) : State := { s with tables := Tables.build s.params, ready := true }

/-- The registers, flags and tables at their reset values; BUF and the model's own fields are left (R55, R272). -/
def State.resetRegisters (s : State) : State :=
  { s with
    ready := false, busy := false, done := false, wign := false, err := .eNone
    arg0 := 0x00000000#32, arg1 := 0x00000000#32, arg2 := 0x00000000#32
    codecCfg := Config.codecCfgReset
    result0 := 0x00000000#32, result1 := 0x00000000#32
    pending := 0x00000000#32
    tables := Tables.invalid }

/-- The offsets of BUF the pending command may write. -/
def State.regionOffsets (s : State) : List Nat := (List.range s.params.bufSize).filter s.inWriteRegion

/-- BUF with a fresh draw stored at each of the offsets: the draw for offset a has index `base + a`. -/
def Memory.storeDraws (base : Nat) : Memory → List Nat → Memory
  | m, [] => m
  | m, a :: as => Memory.storeDraws base (Memory.store m a (Config.freeByte (base + a))) as

/-- The aborted command's write region becomes unspecified: one fresh draw per byte (R273). -/
def State.abortPending (s : State) : State :=
  { s with mem := Memory.storeDraws s.draws s.mem s.regionOffsets, draws := s.draws + s.params.bufSize }

/-- The soft reset: everything but BUF is reset, and a pending command is aborted (R272, R273). -/
def State.softReset (s : State) : State :=
  if s.busy then s.abortPending.resetRegisters else s.resetRegisters

/-- The hard reset: everything is reset, and every byte of BUF is a fresh draw (R271). -/
def State.hardReset (s : State) : State :=
  { s.resetRegisters with mem := [], bufDraw := s.draws, draws := s.draws + s.params.bufSize }

end Sys2Proof.Machine
end

