-- ==== Sys2Proof/Machine/Bus.lean ====
section
/-! DEFINITION. The host's bus accesses (R70 to R78): the registers at their offsets (R31 to R48) and the BUF window
(R72, R74). -/

namespace Sys2Proof.Machine

/-- The eleven registers of R31. -/
inductive Reg where
  | id
  | params
  | ctrl
  | status
  | cmd
  | arg0
  | arg1
  | arg2
  | codecCfg
  | result0
  | result1
  deriving DecidableEq, Repr

/-- The register at a window offset; none at a reserved offset (R31, R75). -/
def regAt (off : Nat) : Option Reg :=
  match off with
  | 0x000 => some .id
  | 0x004 => some .params
  | 0x008 => some .ctrl
  | 0x00C => some .status
  | 0x010 => some .cmd
  | 0x014 => some .arg0
  | 0x018 => some .arg1
  | 0x01C => some .arg2
  | 0x020 => some .codecCfg
  | 0x024 => some .result0
  | 0x028 => some .result1
  | _ => none

/-- The PARAMS register: BUF_SIZE in bits 31:16, NECC_BLK in 15:8, NDATA in 7:0 (R33). -/
def State.paramsWord (s : State) : Word :=
  (BitVec.ofNat 16 s.params.bufSize ++ BitVec.ofNat 8 Config.neccBlk ++ BitVec.ofNat 8 Config.ndata : BitVec 32)

/-- What a 32-bit read of a register returns; write-only registers read 0 (R31). -/
def State.readReg (s : State) : Reg → Word
  | .id => Config.idWord
  | .params => s.paramsWord
  | .ctrl => 0#32
  | .status => s.statusWord
  | .cmd => 0#32
  | .arg0 => s.arg0
  | .arg1 => s.arg1
  | .arg2 => s.arg2
  | .codecCfg => s.codecCfg
  | .result0 => s.result0
  | .result1 => s.result1

/-- A write to CTRL: SRST is bit 0 and goes before WIGN_CLR, bit 1 (R34, R35). -/
def State.writeCtrl (s : State) (v : Word) : State :=
  if v.getLsbD 0 then s.softReset
  else if v.getLsbD 1 then { s with wign := false }
  else s

/-- A write to CMD (R44): ignored while BUSY (R48), rejected while not READY (R276), otherwise accepted (R47). -/
def State.writeCmd (s : State) (v : Word) : State :=
  if s.busy then s.ignoreWrite else if s.ready then s.accept v else s.rejectNotReady

/-- A 32-bit write to a register; read-only registers ignore it, without setting WIGN (R31, R48). -/
def State.writeReg (s : State) (r : Reg) (v : Word) : State :=
  match r with
  | .id => s
  | .params => s
  | .ctrl => s.writeCtrl v
  | .status => s
  | .cmd => s.writeCmd v
  | .arg0 => if s.busy then s.ignoreWrite else { s with arg0 := v }
  | .arg1 => if s.busy then s.ignoreWrite else { s with arg1 := v }
  | .arg2 => if s.busy then s.ignoreWrite else { s with arg2 := v }
  | .codecCfg => if s.busy then s.ignoreWrite else { s with codecCfg := storedCodecCfg v }
  | .result0 => s
  | .result1 => s

/-- A host write to BUF bytes `a` to `a + n − 1`, low byte first (R72); ignored while BUSY (R48). -/
def State.writeBuf (s : State) (w : Width) (a : Nat) (v : Word) : State :=
  if s.busy then s.ignoreWrite else s.memWrite a ((List.range w.bytes).map (byteLane v))

/-- One byte of a host read of BUF: while BUSY, a byte of the pending command's write region is a draw of its own
(R74). -/
def State.readLane (s : State) (a i : Nat) : Byte :=
  if s.busy && s.inWriteRegion (a + i) then Config.freeByte (s.draws + i) else s.bufByte (a + i)

/-- The draws a host read of BUF takes: none unless it touches the write region of a pending command (R74). -/
def State.drawsTaken (s : State) (w : Width) (a : Nat) : Nat :=
  if s.busy && (List.range w.bytes).any (fun i => s.inWriteRegion (a + i)) then w.bytes else 0

/-- The value a legal host read returns (R72 to R75). -/
def State.busReadValue (s : State) (w : Width) (off : Nat) : Word :=
  if accessReachesBuf s.params.bufSize w off then
    ofLE ((List.range w.bytes).map (s.readLane (off - Config.bufOffset)))
  else
    match regAt off with
    | some r => s.readReg r
    | none => 0#32

/-- The state after a legal host read: nothing but what the bus returned, and the draws it took (R39, R81). -/
def State.busRead (s : State) (w : Width) (off : Nat) : State :=
  { s with
    busData := some (s.busReadValue w off)
    draws := s.draws
      + (if accessReachesBuf s.params.bufSize w off then s.drawsTaken w (off - Config.bufOffset) else 0) }

/-- The state after a legal host write (R72, R73, R75). -/
def State.busWrite (s : State) (w : Width) (off : Nat) (v : Word) : State :=
  if accessReachesBuf s.params.bufSize w off then s.writeBuf w (off - Config.bufOffset) v
  else
    match regAt off with
    | some r => s.writeReg r v
    | none => s

/-- An access the spec gives a behaviour goes on to `t`; any other stops by name (R70, R78). -/
def guardAccess (bufSize : Nat) (w : Width) (off : Nat) (t : State) : Host.Outcome State Fault Refusal :=
  if !accessInWindow off then .fault .outsideWindow
  else if !accessAligned w off then .refused .misaligned
  else if !accessWidthAllowed w off then .refused .subwordRegister
  else if !accessWithinBufEnd bufSize w off then .refused .crossesBufEnd
  else .next t

/-- A host read (R70). -/
def hostRead (s : State) (w : Width) (off : Nat) : Host.Outcome State Fault Refusal :=
  guardAccess s.params.bufSize w off (s.busRead w off)

/-- A host write (R70). -/
def hostWrite (s : State) (w : Width) (off : Nat) (v : Word) : Host.Outcome State Fault Refusal :=
  guardAccess s.params.bufSize w off (s.busWrite w off v)

end Sys2Proof.Machine
end

