-- ==== Sys2Proof/Machine/Crc.lean ====
section
/-! DEFINITION. The CRC16 engine: the function crc16 (R132) and the command CRC16 (R135). -/

namespace Sys2Proof.Machine

/-- One byte of `crc16`'s loop (R132). -/
def crcByte (p : Params) (T : Tables) (c : Half) (b : Byte) : Half :=
  if p.crcReflect then (c >>> 8) ^^^ T.crcAt (c.extractLsb' 0 8 ^^^ b)
  else (c <<< 8) ^^^ T.crcAt (c.extractLsb' 8 8 ^^^ b)

/-- `crc16(s)`, through the table (R132). -/
def crc16 (p : Params) (T : Tables) (s : List Byte) : Half :=
  s.foldl (crcByte p T) p.crcInit ^^^ p.crcXorOut

/-- CRC16: the checksum of `BUF[off..off+len−1]` (R135). -/
def execCrc16 (s : State) : Host.Outcome State Fault Refusal :=
  .next (
    if s.spanFits s.offset s.length then
      s.complete (zextHalf (crc16 s.params s.tables (s.memRead s.offset s.length))) 0#32
    else s.raise .eRange)

end Sys2Proof.Machine
end

