-- ==== Sys2Proof/Machine/Galois.lean ====
section
/-! DEFINITION. GF(256) arithmetic over the tables (R153 to R156) and the commands GF_MUL, GF_DIV and POLY_EVAL
(R160 to R162). -/

namespace Sys2Proof.Machine

/-- `gf_mul(a, b)` (R153). -/
def gfMul (T : Tables) (a b : Byte) : Byte :=
  if a = 0#8 ∨ b = 0#8 then 0#8 else T.expAt ((T.logAt a + T.logAt b) % 255)

/-- `gf_div(a, b)`, defined for `b ≠ 0` only; the difference of logarithms is taken modulo 255 to 0..254 (R154).  What it
gives for `b = 0`, which no command reaches, is the model's choice, a DESIGN CHOICE (log entry 5). -/
def gfDiv (T : Tables) (a b : Byte) : Byte :=
  if a = 0#8 then 0#8 else T.expAt ((T.logAt a + (255 - T.logAt b)) % 255)

/-- `gf_inv(b) = gf_div(1, b)`, for `b ≠ 0` as `gf_div` (R154; log entry 5 for `b = 0`). -/
def gfInv (T : Tables) (b : Byte) : Byte := gfDiv T 1#8 b

/-- `gf_pow(a, e)` for `e ≥ 0` (R155). -/
def gfPow (T : Tables) (a : Byte) (e : Nat) : Byte :=
  if e = 0 then 1#8 else if a = 0#8 then 0#8 else T.expAt ((T.logAt a * e) % 255)

/-- `gf_pow(a, e)` for an integer e, defined for `a ≠ 0` only where `e < 0` (R155).  What it gives for `a = 0` and `e < 0`,
which no command reaches, is the model's choice, a DESIGN CHOICE (log entry 5). -/
def gfPowInt (T : Tables) (a : Byte) : Int → Byte
  | .ofNat e => gfPow T a e
  | .negSucc e => gfPow T (gfInv T a) (e + 1)

/-- `poly_eval(p, x)`, the first coefficient that of the highest degree (R156). -/
def polyEval (T : Tables) (p : List Byte) (x : Byte) : Byte :=
  p.foldl (fun acc c => gfMul T acc x ^^^ c) 0#8

/-- GF_MUL: field multiply (R160). -/
def execGfMul (s : State) : Host.Outcome State Fault Refusal :=
  .next (s.complete (zextByte (gfMul s.tables (byteOperand s.arg0) (byteOperand s.arg1))) 0#32)

/-- GF_DIV: field divide; a zero divisor raises E_ARG (R161). -/
def execGfDiv (s : State) : Host.Outcome State Fault Refusal :=
  .next (
    if byteOperand s.arg1 = 0#8 then s.raise .eArg
    else s.complete (zextByte (gfDiv s.tables (byteOperand s.arg0) (byteOperand s.arg1))) 0#32)

/-- POLY_EVAL: evaluate the polynomial in `BUF[off..off+cnt−1]` (R162). -/
def execPolyEval (s : State) : Host.Outcome State Fault Refusal :=
  .next (
    if s.spanFits s.offset s.length then
      s.complete (zextByte (polyEval s.tables (s.memRead s.offset s.length) (byteOperand s.arg2))) 0#32
    else s.raise .eRange)

end Sys2Proof.Machine
end

