-- ==== Sys2Proof/Machine/ReedSolomon.lean ====
section
/-! DEFINITION. The Reed-Solomon codec (R170 to R179) and the commands RS_ENCODE and RS_DECODE (R180, R181).
Transmitted words have the highest degree first (R20); the decoder's own polynomials have the lowest degree
first, as in R176. -/

namespace Sys2Proof.Machine

/-! ### The code -/

/-- `root(i) = α^((RS_PRIM · (RS_FCR + i)) mod 255)` (R171). -/
def rsRoot (p : Params) (T : Tables) (i : Nat) : Byte := T.expAt ((p.rsPrim * (p.rsFcr + i)) % 255)

/-- The product of a polynomial, highest degree first, and `x ⊕ r`. -/
def mulByRoot (T : Tables) (g : List Byte) (r : Byte) : List Byte :=
  List.zipWith (· ^^^ ·) (g ++ [0#8]) (0#8 :: g.map (fun c => gfMul T c r))

/-- The generator polynomial `G = [1, g_{NECC−1}, …, g_0]` (R171). -/
def rsGenerator (p : Params) (T : Tables) (necc : Nat) : List Byte :=
  (List.range necc).foldl (fun g i => mulByRoot T g (rsRoot p T i)) [1#8]

/-- `r` with `d` added to its first symbols. -/
def addPrefix : List Byte → List Byte → List Byte
  | x :: r, y :: d => (x ^^^ y) :: addPrefix r d
  | r, _ => r

/-- `k` rounds of the loop of R173 on `R`, each of which takes off the leading symbol: what is left is
`R[k..]`.  `tail` is `G[1..NECC]`. -/
def rsReduce (T : Tables) (tail : List Byte) : Nat → List Byte → List Byte
  | 0, r => r
  | _ + 1, [] => []
  | k + 1, c :: r =>
    rsReduce T tail k (if c = 0#8 then r else addPrefix r (tail.map fun g => gfMul T g c))

/-- `rs_parity(m)` (R173). -/
def rsParity (p : Params) (T : Tables) (necc : Nat) (m : List Byte) : List Byte :=
  rsReduce T (rsGenerator p T necc).tail m.length (m ++ List.replicate necc 0#8)

/-- The syndromes `S_0, …, S_{NECC−1}` of a transmitted word (R174). -/
def rsSyndromes (p : Params) (T : Tables) (necc : Nat) (r : List Byte) : List Byte :=
  (List.range necc).map fun i => polyEval T r (rsRoot p T i)

/-- Every symbol is 0. -/
def allZero (s : List Byte) : Bool := s.all fun b => b == 0#8

/-! ### Berlekamp and Massey -/

/-- The sum of two polynomials of any lengths. -/
def addPoly : List Byte → List Byte → List Byte
  | [], q => q
  | p, [] => p
  | x :: p, y :: q => (x ^^^ y) :: addPoly p q

/-- The variables of the Berlekamp–Massey loop (R176). -/
structure BmState where
  /-- Λ, lowest degree first. -/
  lam : List Byte
  /-- B, lowest degree first. -/
  prev : List Byte
  /-- ℓ. -/
  ell : Nat
  /-- m. -/
  shift : Nat
  /-- b, the last nonzero discrepancy. -/
  disc : Byte
  deriving DecidableEq, Repr

/-- Λ = [1], B = [1], ℓ = 0, m = 1, b = 1 (R176). -/
def BmState.init : BmState where
  lam := [1#8]
  prev := [1#8]
  ell := 0
  shift := 1
  disc := 1#8

/-- The discrepancy `S_n ⊕ (⊕_{i=1..ℓ} Λ_i · S_{n−i})` (R176). -/
def discrepancy (T : Tables) (syn lam : List Byte) (ell n : Nat) : Byte :=
  (List.range ell).foldl (fun d j => d ^^^ gfMul T (lam.getD (j + 1) 0#8) (syn.getD (n - (j + 1)) 0#8))
    (syn.getD n 0#8)

/-- `Λ ⊕ (d/b) · x^m · B` (R176). -/
def BmState.corrected (T : Tables) (st : BmState) (d : Byte) : List Byte :=
  addPoly st.lam (List.replicate st.shift 0#8 ++ st.prev.map (gfMul T (gfDiv T d st.disc)))

/-- One round of the Berlekamp–Massey loop (R176). -/
def bmStep (T : Tables) (syn : List Byte) (st : BmState) (n : Nat) : BmState :=
  let d := discrepancy T syn st.lam st.ell n
  if d = 0#8 then { st with shift := st.shift + 1 }
  else if 2 * st.ell ≤ n then
    { lam := st.corrected T d, prev := st.lam, ell := n + 1 - st.ell, shift := 1, disc := d }
  else { st with lam := st.corrected T d, shift := st.shift + 1 }

/-- The error locator Λ, lowest degree first (R176). -/
def bmLocator (T : Tables) (necc : Nat) (syn : List Byte) : List Byte :=
  ((List.range necc).foldl (bmStep T syn) BmState.init).lam

/-- The degree of a polynomial, lowest degree first: 0 for a constant. -/
def polyDegree (p : List Byte) : Nat := (p.reverse.dropWhile fun b => b == 0#8).length - 1

/-! ### Chien and Forney -/

/-- A polynomial, lowest degree first, at a point. -/
def evalLow (T : Tables) (p : List Byte) (x : Byte) : Byte := polyEval T p.reverse x

/-- `β = α^RS_PRIM`, α being 0x02 (R151, R171). -/
def rsBeta (p : Params) (T : Tables) : Byte := gfPow T 0x02#8 p.rsPrim

/-- The degrees d in 0..254 with `Λ(β^−d) = 0` (R176). -/
def chienSearch (p : Params) (T : Tables) (lam : List Byte) : List Nat :=
  (List.range 255).filter fun d => evalLow T lam (gfPowInt T (rsBeta p T) (-(d : Int))) == 0#8

/-- `Ω(x) = (S(x) · Λ(x)) mod x^NECC`, lowest degree first (R176). -/
def errorEvaluator (T : Tables) (necc : Nat) (syn lam : List Byte) : List Byte :=
  (List.range necc).map fun j =>
    (List.range (j + 1)).foldl
      (fun acc i => acc ^^^ gfMul T (syn.getD i 0#8) (lam.getD (j - i) 0#8)) 0#8

/-- `Λ'(x) = Σ_{i odd} Λ_i x^(i−1)`, lowest degree first (R176). -/
def formalDerivative (lam : List Byte) : List Byte :=
  (List.range (lam.length - 1)).map fun j => if j % 2 = 0 then lam.getD (j + 1) 0#8 else 0#8

/-- The error value `Y` at degree d (R176). -/
def forneyValue (p : Params) (T : Tables) (omega dlam : List Byte) (d : Nat) : Byte :=
  let x := gfPow T (rsBeta p T) d
  gfMul T (gfPowInt T x (1 - (p.rsFcr : Int)))
    (gfDiv T (evalLow T omega (gfInv T x)) (evalLow T dlam (gfInv T x)))

/-- `r[L−1−d] ⊕= y` (R176). -/
def addAtDegree (r : List Byte) (d : Nat) (y : Byte) : List Byte :=
  r.set (r.length - 1 - d) (r.getD (r.length - 1 - d) 0#8 ^^^ y)

/-- The word with the error values taken off at the located degrees (R176). -/
def applyCorrections (p : Params) (T : Tables) (omega dlam : List Byte) (r : List Byte)
    (locs : List Nat) : List Byte :=
  locs.foldl (fun acc d => addAtDegree acc d (forneyValue p T omega dlam d)) r

/-- What is left of R176 once Λ is known: `none` is FAIL, `some (r', w)` is OK(r', w). -/
def rsRepair (p : Params) (T : Tables) (necc : Nat) (r syn lam : List Byte) : Option (List Byte × Nat) :=
  let nu := polyDegree lam
  let locs := chienSearch p T lam
  if nu > necc / 2 then none
  else if locs.length ≠ nu then none
  else if locs.any (fun d => decide (r.length ≤ d)) then none
  else
    let r' := applyCorrections p T (errorEvaluator T necc syn lam) (formalDerivative lam) r locs
    if allZero (rsSyndromes p T necc r') then some (r', nu) else none

/-- `rs_correct(r)` by the reference algorithm (R175, R176): `none` is FAIL, `some (r', w)` is OK(r', w). -/
def rsCorrect (p : Params) (T : Tables) (necc : Nat) (r : List Byte) : Option (List Byte × Nat) :=
  let syn := rsSyndromes p T necc r
  if allZero syn then some (r, 0) else rsRepair p T necc r syn (bmLocator T necc syn)

/-! ### The commands -/

/-- RS_ENCODE: the parity of the message in `BUF[off..off+k−1]`, written after it (R180). -/
def execRsEncode (s : State) : Host.Outcome State Fault Refusal :=
  .next (
    if s.codec.valid then
      if s.spanFits s.offset s.codec.wordLen then
        (s.memWrite (s.offset + s.codec.msgLen)
          (rsParity s.params s.tables s.codec.necc (s.memRead s.offset s.codec.msgLen))).complete 0#32 0#32
      else s.raise .eRange
    else s.raise .eConfig)

/-- How RS_DECODE ends, by the result of `rs_correct` (R178, R181). -/
def State.endDecode (s : State) (res : Option (List Byte × Nat)) : State :=
  match res with
  | none => s.raise .eUncorrectable
  | some (r, w) => (s.memWrite s.offset r).complete (BitVec.ofNat 32 w) 0#32

/-- RS_DECODE: correct the word in `BUF[off..off+L−1]` in place (R181). -/
def execRsDecode (s : State) : Host.Outcome State Fault Refusal :=
  .next (
    if s.codec.valid then
      if s.spanFits s.offset s.codec.wordLen then
        s.endDecode (rsCorrect s.params s.tables s.codec.necc (s.memRead s.offset s.codec.wordLen))
      else s.raise .eRange
    else s.raise .eConfig)

end Sys2Proof.Machine
end

