-- ==== Sys2Proof/Machine/Block.lean ====
section
/-! DEFINITION. The block format (R200 to R206) and the commands BUILD_DATA, BUILD_SUPER, VERIFY and BLOCK_KIND
(R220 to R223).  The code of a block is always (255, 32, 127), whatever CODEC_CFG holds (R107). -/

namespace Sys2Proof.Machine

/-- The checksum a block stores over its address and payload (R203). -/
def blockChecksum (p : Params) (T : Tables) (crcRegion : List Byte) : Half :=
  crc16 p T crcRegion ^^^ Config.crcMask

/-- The parity of a block over its address, payload and checksum (R204). -/
def blockParity (p : Params) (T : Tables) (message : List Byte) : List Byte :=
  rsParity p T blockCodec.necc message

/-- The checksum field of a block: `B[94..95]` (R200). -/
def storedChecksum (block : List Byte) : Half := u16 (block.drop Config.crcLen)

/-- The checksum of a block is good (R203). -/
def checksumGood (p : Params) (T : Tables) (block : List Byte) : Bool :=
  crc16 p T (block.take Config.crcLen) == storedChecksum block ^^^ Config.crcMask

/-- The kind bit of a block: 1 for a superblock, 0 for a data block (R206). -/
def kindBit (block : List Byte) : Word := if u32 block = Config.sentinel then 1#32 else 0#32

/-- The metadata fields of a superblock, in their order (R201).  No command reads one: to PBK-CORE the 90 bytes are opaque
(R10); the fields say where the host's values stand. -/
inductive MetaField where
  | datasize
  | pagesize
  | origsize
  | mode
  | attributes
  | page
  | filecrc
  | modified
  | name
  deriving DecidableEq, Repr

/-- The offset of a metadata field in the block (R201). -/
def MetaField.offset : MetaField → Nat
  | .datasize => 4
  | .pagesize => 8
  | .origsize => 12
  | .mode => 16
  | .attributes => 17
  | .page => 18
  | .filecrc => 20
  | .modified => 22
  | .name => 30

/-- The bytes of a metadata field (R201); the name has NAME_LEN (R12). -/
def MetaField.size : MetaField → Nat
  | .datasize => 4
  | .pagesize => 4
  | .origsize => 4
  | .mode => 1
  | .attributes => 1
  | .page => 2
  | .filecrc => 2
  | .modified => 8
  | .name => Config.nameLen

/-- The bytes a superblock holds in a metadata field (R201). -/
def MetaField.bytes (f : MetaField) (block : List Byte) : List Byte := (block.drop f.offset).take f.size

/-- Formatting a block at an offset around the payload that stands there: the address, the masked checksum and the
parity are written, the payload is not (R220, R221). -/
def State.buildBlock (s : State) (base : Nat) (addr : Word) : State :=
  let head := le32 addr ++ s.memRead (base + 4) Config.ndata
  let chk := blockChecksum s.params s.tables head
  let parity := blockParity s.params s.tables (head ++ le16 chk)
  ((s.memWrite base (le32 addr)).memWrite (base + Config.crcLen) (le16 chk ++ parity)).complete (zextHalf chk) 0#32

/-- BUILD_DATA: format a data block at ARG0 with address ARG1; the sentinel is not a data address (R220). -/
def execBuildData (s : State) : Host.Outcome State Fault Refusal :=
  .next (
    if s.spanFits s.offset Config.blockSize then
      if s.arg1 = Config.sentinel then s.raise .eArg else s.buildBlock s.offset s.arg1
    else s.raise .eRange)

/-- BUILD_SUPER: format a superblock at ARG0 (R221). -/
def execBuildSuper (s : State) : Host.Outcome State Fault Refusal :=
  .next (
    if s.spanFits s.offset Config.blockSize then s.buildBlock s.offset Config.sentinel
    else s.raise .eRange)

/-- RESULT0 of a VERIFY that succeeded: 1 is INTACT, 2 is CORRECTED (R209). -/
def verifyOutcome (w : Nat) : Word := if w = 0 then 1#32 else 2#32

/-- How VERIFY ends, by the result of `rs_correct` on the block (R209, R215, R222). -/
def State.endVerify (s : State) (res : Option (List Byte × Nat)) : State :=
  match res with
  | none => s.raiseWith .eUncorrectable 3#32 0#32
  | some (block, w) =>
    if checksumGood s.params s.tables block then
      (s.memWrite s.offset block).complete (verifyOutcome w) ((kindBit block <<< 8) ||| BitVec.ofNat 32 w)
    else s.raiseWith .eChecksum 4#32 (BitVec.ofNat 32 w)

/-- VERIFY: verify and repair the block at ARG0 (R222). -/
def execVerify (s : State) : Host.Outcome State Fault Refusal :=
  .next (
    if s.spanFits s.offset Config.blockSize then
      s.endVerify (rsCorrect s.params s.tables blockCodec.necc (s.memRead s.offset Config.blockSize))
    else s.raise .eRange)

/-- BLOCK_KIND: classify the block at ARG0 by its four address bytes (R223). -/
def execBlockKind (s : State) : Host.Outcome State Fault Refusal :=
  .next (
    if s.spanFits s.offset 4 then s.complete (kindBit (s.memRead s.offset 4)) 0#32
    else s.raise .eRange)

end Sys2Proof.Machine
end

