-- ==== Sys2Proof/Machine/Dispatch.lean ====
section
/-! DEFINITION. The dispatch: one arm per command, each a direct call of its meaning (R102). -/

namespace Sys2Proof.Machine

def exec (i : Instr) (s : State) : Host.Outcome State Fault Refusal :=
  match i with
  | .crc16 => Sys2Proof.Machine.execCrc16 s
  | .gfMul => Sys2Proof.Machine.execGfMul s
  | .gfDiv => Sys2Proof.Machine.execGfDiv s
  | .polyEval => Sys2Proof.Machine.execPolyEval s
  | .rsEncode => Sys2Proof.Machine.execRsEncode s
  | .rsDecode => Sys2Proof.Machine.execRsDecode s
  | .buildData => Sys2Proof.Machine.execBuildData s
  | .buildSuper => Sys2Proof.Machine.execBuildSuper s
  | .verify => Sys2Proof.Machine.execVerify s
  | .blockKind => Sys2Proof.Machine.execBlockKind s

end Sys2Proof.Machine
end

