-- ==== Sys2Proof/Machine/Engine.lean ====
section
/-! DEFINITION. The engine's step (R30, R274), and one turn of the interleaving (R85). -/

namespace Sys2Proof.Machine

/-- The engine executes PENDING: a reserved word ends with E_BAD_OPCODE before anything else is looked at
(R243, R244). -/
def runPending (s : State) : Host.Outcome State Fault Refusal :=
  match decodeWord s.pending with
  | .ok i => exec i s
  | .error _ => .next (s.raise .eBadOpcode)

/-- The engine's turn: initialisation is its only step while READY is 0 (R274), then the pending command (R47);
with nothing to do it leaves the state as it is. -/
def engineTurn (s : State) : Host.Outcome State Fault Refusal :=
  if !s.ready then .next s.initTables
  else if s.busy then runPending s
  else .next s

/-- One turn of whichever agent moves (R85). -/
def takeTurn (t : Turn) (s : State) : Host.Outcome State Fault Refusal :=
  match t with
  | .engine => engineTurn s
  | .read w off => hostRead s w off
  | .write w off v => hostWrite s w off v
  | .hardReset => .next s.hardReset

/-- The next turn of the script; the engine moves when the script is empty (R275, R284). -/
def nextTurn (s : State) : Turn := s.script.headD .engine

/-- The state with its next turn taken off the script. -/
def State.popTurn (s : State) : State := { s with script := s.script.tail }

/-- The state in which the engine has its tables, and the word is pending and its turn is next. -/
def State.placeCommand (s : State) (w : Word) : State :=
  { s.initTables.accept w with script := .engine :: s.script }

end Sys2Proof.Machine
end

