-- ==== Sys2Proof/Machine/Step.lean ====
section
/-! DEFINITION. One step of the machine: the next turn of the interleaving of host accesses and engine steps (R85). -/

namespace Sys2Proof.Machine

/-- One step: the next turn is taken off the script and carried out (R85). -/
def step (s : State) : Host.Outcome State Fault Refusal := takeTurn (nextTurn s) s.popTurn

/-- The state in which the next step runs the command word whose low `nbits` bits are `w`'s: the tables are
built, the word is pending, and the engine moves next (log entry 4). -/
def State.withFetchWord (s : State) (nbits w : Nat) : State := s.placeCommand (tableWord nbits w)

end Sys2Proof.Machine
end

