-- ==== Sys2Proof/Safety.lean ====
section
/-! DEFINITION. The words the claims are stated in: the invariant of the machine, what a command's end looks like and what
it leaves alone, and the spec's arithmetic said a second time without the lookup tables (R133, R150, R172). -/

namespace Sys2Proof.Machine

/-! ### The invariant -/

/-- What every state the machine can be in satisfies. -/
structure State.Inv (s : State) : Prop where
  /-- The parameters meet the constraints of R14, R16 and R70. -/
  paramsOk : s.params.wellFormed = true
  /-- BUSY and DONE are never both 1 (R40). -/
  notBusyAndDone : ¬ (s.busy = true ∧ s.done = true)
  /-- No command is latched before the tables are built (R276). -/
  busyOnlyReady : s.busy = true → s.ready = true
  /-- While READY is 1 the tables are those of the parameters (R52). -/
  readyTables : s.ready = true → s.tables = Tables.build s.params
  /-- While READY is 0 the tables are invalid (R55). -/
  notReadyTables : s.ready = false → s.tables = Tables.invalid
  /-- The reserved bits of CODEC_CFG read 0 (R46). -/
  cfgReserved : s.codecCfg.extractLsb' 24 8 = 0#8
  /-- BUF has its canonical form (R50). -/
  bufCanonical : Memory.wf s.params.bufSize s.mem
  /-- The draws that BUF holds since the last hard reset are all used up. -/
  drawsFresh : s.bufDraw + s.params.bufSize ≤ s.draws

/-- The parameters are those of a PBK-CORE and the tables are built: what READY = 1 stands for (R38). -/
def State.Initialised (s : State) : Prop := s.params.wellFormed = true ∧ s.tables = Tables.build s.params

/-- The engine moves next. -/
def State.engineNext (s : State) : Prop := s.script.headD .engine = .engine

/-! ### What a command leaves alone, and how it ends -/

/-- Everything but STATUS.BUSY, DONE, ERR, RESULT0, RESULT1 and BUF is the same (R43, R45, R51). -/
structure SameBesideEnd (s t : State) : Prop where
  params : t.params = s.params
  ready : t.ready = s.ready
  wign : t.wign = s.wign
  arg0 : t.arg0 = s.arg0
  arg1 : t.arg1 = s.arg1
  arg2 : t.arg2 = s.arg2
  codecCfg : t.codecCfg = s.codecCfg
  pending : t.pending = s.pending
  tables : t.tables = s.tables
  bufDraw : t.bufDraw = s.bufDraw
  draws : t.draws = s.draws
  script : t.script = s.script
  busData : t.busData = s.busData

/-- `t` is `s` after a command has ended with this code and these results (R249, R250); nothing is said of BUF. -/
structure EndsWith (s t : State) (e : ErrCode) (r0 r1 : Word) : Prop where
  err : t.err = e
  busy : t.busy = false
  done : t.done = true
  result0 : t.result0 = r0
  result1 : t.result1 = r1
  same : SameBesideEnd s t

/-- Every byte of BUF reads as before. -/
def BufSame (s t : State) : Prop := ∀ a, t.bufByte a = s.bufByte a

/-- Every byte of BUF outside the offsets `lo` to `hi − 1` reads as before. -/
def BufSameOutside (s t : State) (lo hi : Nat) : Prop := ∀ a, (a < lo ∨ hi ≤ a) → t.bufByte a = s.bufByte a

/-! ### CRC, bit by bit -/

/-- One bit of the bit-serial CRC register (R133). -/
def crcBit (p : Params) (c : Half) : Half :=
  if p.crcReflect then (if c.getLsbD 0 then (c >>> 1) ^^^ reflect16 p.crcPoly else c >>> 1)
  else (if c.getLsbD 15 then (c <<< 1) ^^^ p.crcPoly else c <<< 1)

/-- One byte of the bit-serial CRC: the byte enters at the top or at the bottom, then eight bits are shifted (R133). -/
def crcSerialByte (p : Params) (c : Half) (b : Byte) : Half :=
  (crcBit p)^[8] (c ^^^ (if p.crcReflect then b.setWidth 16 else b.setWidth 16 <<< 8))

/-- crc16 as a bit-serial shift register, with no table (R133). -/
def crcSerial (p : Params) (bytes : List Byte) : Half :=
  bytes.foldl (crcSerialByte p) p.crcInit ^^^ p.crcXorOut

/-! ### GF(256) without tables -/

/-- Multiplication by z: a ninth bit is made and the field polynomial taken off where it is 1 (R150). -/
def timesZ (poly : BitVec 9) (a : Byte) : Byte :=
  let d : BitVec 9 := a.setWidth 9 <<< 1
  (if d.getLsbD 8 then d ^^^ poly else d).setWidth 8

/-- The carry-less product of two bytes reduced modulo the field polynomial: `a·z^i` is added for every bit i of
`b` (R150, R153). -/
def fieldMul (poly : BitVec 9) (a b : Byte) : Byte :=
  (List.range 8).foldl (fun acc i => if b.getLsbD i then acc ^^^ (timesZ poly)^[i] a else acc) 0#8

/-- `α^i`, α being the class of z (R151). -/
def alphaPow (poly : BitVec 9) (i : Nat) : Byte := (timesZ poly)^[i] 1#8

/-- The value of a polynomial, first coefficient highest degree, by Horner's scheme (R156). -/
def fieldEval (poly : BitVec 9) (p : List Byte) (x : Byte) : Byte :=
  p.foldl (fun acc c => fieldMul poly acc x ^^^ c) 0#8

/-! ### Codewords -/

/-- `r` is a codeword of the code with `necc` parity symbols: every root of the generator is a root of `poly(r)`
(R171, R172). -/
def IsCodeword (p : Params) (necc : Nat) (r : List Byte) : Prop :=
  ∀ i < necc, fieldEval p.rsGfPoly r (alphaPow p.rsGfPoly ((p.rsPrim * (p.rsFcr + i)) % 255)) = 0#8

/-- The number of symbols in which two words of one length differ (R175, R179). -/
def symbolErrors : List Byte → List Byte → Nat
  | x :: r, y :: c => (if x = y then 0 else 1) + symbolErrors r c
  | _, _ => 0

/-- The checksum field of a block as the spec writes it: bytes 94 and 95, low byte first (R200). -/
def checksumField (block : List Byte) : Half := block.getD 95 0#8 ++ block.getD 94 0#8

/-- A well-formed block: 128 bytes, its checksum good, a codeword of the block code (R203, R205). -/
structure IsBlock (p : Params) (block : List Byte) : Prop where
  length : block.length = 128
  checksum : crcSerial p (block.take 94) = checksumField block ^^^ 0x55AA#16
  codeword : IsCodeword p 32 block

/-- The four address bytes are all 0xFF (R206). -/
abbrev HasSentinel (block : List Byte) : Prop := block.take 4 = [0xFF#8, 0xFF#8, 0xFF#8, 0xFF#8]

end Sys2Proof.Machine
end

