-- ==== Sys2Proof/Certificates/Slice0/Obligations.lean ====
section
/-! DEFINITION. The statements about the machine.  Each docstring names the rules of the spec it formalises, and the log
entry where a clause is the model's own choice. -/

open Sys2Proof Sys2Proof.Machine

/-! ### Reset, initialisation and the interleaving -/

/-- R55 with R32, R33 and R38: every piece of state after a hard reset.  Each BUF byte is a draw of its own, of whose value
nothing is known. -/
def Obligations.HardResetValues : Prop :=
  State.reset.readReg .id = 0x314B4250#32 ∧ State.reset.readReg .params = 0x0200205A#32
    ∧ State.reset.readReg .status = 0x00000008#32
    ∧ State.reset.ready = false ∧ State.reset.busy = false ∧ State.reset.done = false
    ∧ State.reset.cfgOk = true ∧ State.reset.wign = false ∧ State.reset.err.code = 0x00#8
    ∧ State.reset.arg0 = 0#32 ∧ State.reset.arg1 = 0#32 ∧ State.reset.arg2 = 0#32
    ∧ State.reset.codecCfg = 0x007F20FF#32 ∧ State.reset.result0 = 0#32 ∧ State.reset.result1 = 0#32
    ∧ State.reset.pending = 0#32 ∧ State.reset.tables = Tables.invalid
    ∧ ∃ draw : Nat → Nat, (∀ a b, draw a = draw b → a = b)
        ∧ ∀ a < 512, State.reset.bufByte a = Config.freeByte (draw a)

/-- R271: a hard reset at any time gives every piece of state its reset value in one step, every BUF byte a draw not used
before, and discards a pending command.  The turns still to come, the last bus value and the draw indexes are the model's
own (log entries 3, 4 and 10). -/
def Obligations.HardResetAtAnyTime : Prop :=
  ∀ s : State, s.script.head? = some .hardReset →
    ∃ t, step s = .next t
      ∧ t = { State.reset with
                params := s.params, script := s.script.tail, busData := s.busData
                bufDraw := s.draws, draws := s.draws + s.params.bufSize }
      ∧ ∀ a, t.bufByte a = Config.freeByte (s.draws + a)

/-- R272 and R273: a write of SRST to CTRL resets everything but BUF, at any time; if a command was pending, each byte of
its write region becomes a fresh draw, and every other byte is kept.  The index a draw has and the number of draws an abort
takes are the model's own (log entries 3 and 10), and so is the region of a command that would end with E_CONFIG or E_ARG
(log entry 8); PendingWriteRegionByteByByte says which bytes the region holds. -/
def Obligations.SoftResetKeepsBufOutsideAbortedRegion : Prop :=
  ∀ (s : State) (v : Word), s.script.head? = some (.write .w32 0x008 v) → v.getLsbD 0 = true →
    ∃ t, step s = .next t
      ∧ t.ready = false ∧ t.busy = false ∧ t.done = false ∧ t.wign = false ∧ t.err = .eNone
      ∧ t.arg0 = 0#32 ∧ t.arg1 = 0#32 ∧ t.arg2 = 0#32 ∧ t.codecCfg = 0x007F20FF#32
      ∧ t.result0 = 0#32 ∧ t.result1 = 0#32 ∧ t.pending = 0#32 ∧ t.tables = Tables.invalid
      ∧ t.params = s.params ∧ t.script = s.script.tail ∧ t.busData = s.busData ∧ t.bufDraw = s.bufDraw
      ∧ (∀ a < s.params.bufSize, t.bufByte a
          = if s.busy = true ∧ s.inWriteRegion a = true then Config.freeByte (s.draws + a) else s.bufByte a)
      ∧ (s.busy = false → t.draws = s.draws) ∧ (s.busy = true → t.draws = s.draws + s.params.bufSize)

/-- R35, and the reserved bits of R34: a CTRL write without SRST changes WIGN only, and only if WIGN_CLR is written as 1,
while BUSY too. -/
def Obligations.CtrlWithoutResetChangesWignOnly : Prop :=
  ∀ (s : State) (v : Word), s.script.head? = some (.write .w32 0x008 v) → v.getLsbD 0 = false →
    step s = .next { s with
      wign := if v.getLsbD 1 = true then false else s.wign
      script := s.script.tail }

/-- R274: while READY is 0 the engine's step is the table initialisation, which builds the tables from the parameters, sets
READY, and changes nothing else. -/
def Obligations.InitialisationStep : Prop :=
  ∀ s : State, s.ready = false → s.engineNext →
    step s = .next { s with
      ready := true, tables := Tables.build s.params, script := s.script.tail }

/-- R131, R133 and R152: what the built tables hold.  The exponent table starts at 1 and each entry is z times the one
before; the logarithm table inverts it on the nonzero bytes; a CRC table entry is eight bits of the bit-serial register. -/
def Obligations.BuiltTablesHoldPowersLogsAndCrcs : Prop :=
  ∀ p : Params, p.wellFormed = true →
    (Tables.build p).exp.length = 255 ∧ (Tables.build p).log.length = 255 ∧ (Tables.build p).crc.length = 256
      ∧ (Tables.build p).expAt 0 = 1#8
      ∧ (∀ i < 254, (Tables.build p).expAt (i + 1) = timesZ p.rsGfPoly ((Tables.build p).expAt i))
      ∧ (∀ i < 255, (Tables.build p).expAt i ≠ 0#8 ∧ (Tables.build p).logAt ((Tables.build p).expAt i) = i)
      ∧ (∀ a : Byte, a ≠ 0#8 → (Tables.build p).logAt a < 255
          ∧ (Tables.build p).expAt ((Tables.build p).logAt a) = a)
      ∧ ∀ b : Byte, (Tables.build p).crcAt b
          = (crcBit p)^[8] (if p.crcReflect then b.setWidth 16 else b.setWidth 16 <<< 8)

/-- R47 for an idle, ready engine: the word is latched, BUSY is set and DONE cleared; ERR, RESULT0 and RESULT1 keep their
values. -/
def Obligations.CmdWriteIsAccepted : Prop :=
  ∀ (s : State) (w : Word), s.script.head? = some (.write .w32 0x010 w) → s.ready = true → s.busy = false →
    step s = .next { s with
      pending := w, busy := true, done := false, script := s.script.tail }

/-- R276: a CMD write while READY is 0 is rejected in the host's own step; writes to ARG0 to ARG2, CODEC_CFG and BUF are
accepted normally. -/
def Obligations.CmdBeforeReadyIsRejected : Prop :=
  ∀ (s : State) (v : Word), s.ready = false → s.busy = false →
    (s.script.head? = some (.write .w32 0x010 v) → step s = .next { s with
        err := .eNotReady, done := true, result0 := 0#32, result1 := 0#32, script := s.script.tail })
      ∧ (s.script.head? = some (.write .w32 0x014 v) → step s = .next { s with
          arg0 := v, script := s.script.tail })
      ∧ (s.script.head? = some (.write .w32 0x018 v) → step s = .next { s with
          arg1 := v, script := s.script.tail })
      ∧ (s.script.head? = some (.write .w32 0x01C v) → step s = .next { s with
          arg2 := v, script := s.script.tail })
      ∧ (s.script.head? = some (.write .w32 0x020 v) → step s = .next { s with
          codecCfg := v &&& 0x00FFFFFF#32, script := s.script.tail })
      ∧ ∀ (w : Width) (a : Nat), s.script.head? = some (.write w (0x800 + a) v) →
          a % w.bytes = 0 → a + w.bytes ≤ s.params.bufSize → 0x800 + a < 0x1000 →
          ∃ t, step s = .next t ∧ (∀ i < w.bytes, t.bufByte (a + i) = v.extractLsb' (8 * i) 8)
            ∧ BufSameOutside s t a (a + w.bytes)
            ∧ t = { s with mem := t.mem, script := s.script.tail }

/-- R48: while BUSY is 1, a host write to CMD, ARG0 to ARG2, CODEC_CFG or BUF only sets WIGN; a write to a read-only
register or a reserved offset is ignored without setting it; a write to CTRL is not ignored. -/
def Obligations.BusyWritesAreIgnored : Prop :=
  ∀ (s : State) (w : Width) (off : Nat) (v : Word), s.busy = true →
    s.script.head? = some (.write w off v) → accessWellFormed s.params.bufSize w off = true →
    (off ≠ 0x008 → step s = .next { s with
        wign := if off ∈ [0x010, 0x014, 0x018, 0x01C, 0x020]
              ∨ (0x800 ≤ off ∧ off + w.bytes ≤ 0x800 + s.params.bufSize) then true else s.wign
        script := s.script.tail })
      ∧ (off = 0x008 → v.getLsbD 0 = true → ∃ t, step s = .next t ∧ t.busy = false ∧ t.ready = false)
      ∧ (off = 0x008 → v.getLsbD 0 = false → v.getLsbD 1 = true →
          step s = .next { s with wign := false, script := s.script.tail })

/-- R103: the reserved words are 0 and every word above 10, and an accepted one ends with E_BAD_OPCODE and has no other
effect. -/
def Obligations.ReservedWordsEndWithBadOpcode : Prop :=
  (∀ w : Word, (∃ r, decodeWord w = .error r) ↔ (w.toNat = 0 ∨ 10 < w.toNat))
    ∧ ∀ s : State, s.ready = true → s.busy = true → s.engineNext → (s.pending.toNat = 0 ∨ 10 < s.pending.toNat) →
      step s = .next { s with
        err := .eBadOpcode, busy := false, done := true, result0 := 0#32, result1 := 0#32
        script := s.script.tail }

/-- R30 and R47: when the engine moves and the pending word selects a command, the step is that command, the turn taken off
the script. -/
def Obligations.StepRunsThePendingCommand : Prop :=
  ∀ (s : State) (i : Instr), s.ready = true → s.busy = true → s.engineNext → decodeWord s.pending = .ok i →
    step s = exec i { s with script := s.script.tail }

/-- The model's form of the progress R275 and R284 promise without a bound, to the quiescence of R285: with no turn of the
host waiting, the engine is quiescent after two steps at most, whatever state it starts in; and a turn of the quiescent
engine changes nothing (R40, R45, R47).  That the engine moves whenever the script is empty, and so the bound of two steps,
and that a turn with nothing to do is a step, are the model's choice (log entry 4). -/
def Obligations.EngineBecomesQuiescent : Prop :=
  (∀ s : State, s.script = [] →
    ∃ t u, step s = .next t ∧ step t = .next u ∧ u.script = [] ∧ u.ready = true ∧ u.busy = false)
  ∧ ∀ s : State, s.engineNext → s.ready = true → s.busy = false → step s = .next { s with script := s.script.tail }

/-! ### Encoding -/

/-- Every command's word decodes to it, as a register value and as a row of the opcode table (R101, R102). -/
def Obligations.DecodeInvertsEncode : Prop :=
  ∀ i : Instr, i.wellFormed = true ∧ decodeWord (encode i) = .ok i ∧ decodeTableWord 32 (encode i).toNat = some i

/-- R101: a word selects a command iff it equals one of the ten values exactly. -/
def Obligations.WordSelectsCommandIffExact : Prop :=
  (∀ (w : Word) (i : Instr), decodeWord w = .ok i ↔ w = encode i)
    ∧ ∀ w : Word, (∃ i, decodeWord w = .ok i) ↔ (w.extractLsb' 8 24 = 0#24 ∧ 1 ≤ (w.extractLsb' 0 8).toNat
        ∧ (w.extractLsb' 0 8).toNat ≤ 10)

/-- R102: the opcode map, word by word. -/
def Obligations.OpcodeMapWords : Prop :=
  decodeWord 0x00000001#32 = .ok .crc16 ∧ decodeWord 0x00000002#32 = .ok .gfMul
    ∧ decodeWord 0x00000003#32 = .ok .gfDiv ∧ decodeWord 0x00000004#32 = .ok .polyEval
    ∧ decodeWord 0x00000005#32 = .ok .rsEncode ∧ decodeWord 0x00000006#32 = .ok .rsDecode
    ∧ decodeWord 0x00000007#32 = .ok .buildData ∧ decodeWord 0x00000008#32 = .ok .buildSuper
    ∧ decodeWord 0x00000009#32 = .ok .verify ∧ decodeWord 0x0000000A#32 = .ok .blockKind

/-! ### Host accesses -/

/-- R38, R39, R42 and R240: a STATUS read returns the flags, ERR and a CFG_OK computed from CODEC_CFG, reserved bits 0, and
has no side effect; ERR holds the numbers of R240's table, and never a reserved one. -/
def Obligations.StatusReadReturnsFlags : Prop :=
  (ErrCode.eNone.code = 0x00#8 ∧ ErrCode.eConfig.code = 0x01#8 ∧ ErrCode.eUncorrectable.code = 0x02#8
    ∧ ErrCode.eChecksum.code = 0x03#8 ∧ ErrCode.eNotReady.code = 0x04#8 ∧ ErrCode.eBadOpcode.code = 0x05#8
    ∧ ErrCode.eRange.code = 0x06#8 ∧ ErrCode.eArg.code = 0x07#8 ∧ ∀ e : ErrCode, e.code.toNat < 8)
  ∧ ∀ s : State, s.script.head? = some (.read .w32 0x00C) →
    ∃ v : Word, step s = .next { s with busData := some v, script := s.script.tail }
      ∧ v.getLsbD 0 = s.ready ∧ v.getLsbD 1 = s.busy ∧ v.getLsbD 2 = s.done
      ∧ (v.getLsbD 3 = true ↔ 1 ≤ s.codecCfg.toNat / 256 % 256
          ∧ s.codecCfg.toNat / 256 % 256 + s.codecCfg.toNat / 65536 % 256 + 1 ≤ s.codecCfg.toNat % 256)
      ∧ v.getLsbD 4 = s.wign ∧ v.extractLsb' 5 3 = 0#3 ∧ v.extractLsb' 8 8 = s.err.code
      ∧ v.extractLsb' 16 16 = 0#16

/-- R31: the value a read of each of the eleven registers returns, and 0 at every other 4-byte-aligned offset below 0x800;
only the bus value changes. -/
def Obligations.RegisterReadsReturnTheirValues : Prop :=
  ∀ (s : State) (off : Nat), s.script.head? = some (.read .w32 off) → off % 4 = 0 → off < 0x800 →
    step s = .next { s with
      script := s.script.tail
      busData := some (
        if off = 0x000 then 0x314B4250#32
        else if off = 0x004 then BitVec.ofNat 32 (s.params.bufSize % 65536 * 65536 + 32 * 256 + 90)
        else if off = 0x00C then s.statusWord
        else if off = 0x014 then s.arg0
        else if off = 0x018 then s.arg1
        else if off = 0x01C then s.arg2
        else if off = 0x020 then s.codecCfg
        else if off = 0x024 then s.result0
        else if off = 0x028 then s.result1
        else 0#32) }

/-- R45 and R46: with the engine idle, a write to ARG0 to ARG2 stores all 32 bits and a write to CODEC_CFG all but bits
31:24, valid or not; nothing else changes.  A write to a read-only register changes nothing (R31). -/
def Obligations.IdleRegisterWritesAreStored : Prop :=
  ∀ (s : State) (off : Nat) (v : Word), s.script.head? = some (.write .w32 off v) → s.busy = false →
    off ∈ [0x000, 0x004, 0x00C, 0x014, 0x018, 0x01C, 0x020, 0x024, 0x028] →
    step s = .next { s with
      script := s.script.tail
      arg0 := if off = 0x014 then v else s.arg0
      arg1 := if off = 0x018 then v else s.arg1
      arg2 := if off = 0x01C then v else s.arg2
      codecCfg := if off = 0x020 then v &&& 0x00FFFFFF#32 else s.codecCfg }

/-- R39, R78 and R81: a read the spec gives a behaviour completes and changes nothing but the bus value; the draw counter is
the model's own. -/
def Obligations.ReadsHaveNoSideEffect : Prop :=
  ∀ (s : State) (w : Width) (off : Nat), s.script.head? = some (.read w off) →
    accessWellFormed s.params.bufSize w off = true →
    ∃ t, step s = .next t
      ∧ t = { s with busData := t.busData, draws := t.draws, script := s.script.tail }
      ∧ t.busData ≠ none ∧ s.draws ≤ t.draws ∧ (s.busy = false → t.draws = s.draws)

/-- R78: a misaligned access, an 8- or 16-bit access below 0x800 and an access across the end of the BUF window have no
step, for reads and for writes.  The names of the refusals, and which of them answers an access that is several of these at
once, are the model's choice (log entry 6). -/
def Obligations.IllegalAccessesAreRefused : Prop :=
  ∀ (s : State) (w : Width) (off : Nat) (v : Word),
    s.script.head? = some (.read w off) ∨ s.script.head? = some (.write w off v) →
    (off < 0x1000 → off % w.bytes ≠ 0 → step s = .refused .misaligned)
      ∧ (off < 0x800 → off % w.bytes = 0 → w ≠ .w32 → step s = .refused .subwordRegister)
      ∧ (off < 0x1000 → off % w.bytes = 0 → 0x800 ≤ off → off < 0x800 + s.params.bufSize →
          0x800 + s.params.bufSize < off + w.bytes → step s = .refused .crossesBufEnd)

/-- A read or a write at an offset outside the 4096-byte window of R70 is a fault: the model's own reading (log entry 6). -/
def Obligations.AccessesOutsideTheWindowFault : Prop :=
  ∀ (s : State) (w : Width) (off : Nat) (v : Word),
    s.script.head? = some (.read w off) ∨ s.script.head? = some (.write w off v) → 0x1000 ≤ off →
    step s = .fault .outsideWindow

/-- R75: a legal access at a reserved offset reads 0 and ignores a write, without setting WIGN, while BUSY too. -/
def Obligations.ReservedOffsetsReadZeroIgnoreWrites : Prop :=
  ∀ (s : State) (w : Width) (off : Nat) (v : Word), off < 0x1000 → off % w.bytes = 0 →
    (0x02C ≤ off ∧ off < 0x800 ∧ w = .w32) ∨ 0x800 + s.params.bufSize ≤ off →
    (s.script.head? = some (.read w off) →
        step s = .next { s with busData := some 0#32, script := s.script.tail })
      ∧ (s.script.head? = some (.write w off v) → step s = .next { s with script := s.script.tail })

/-- R72 without the busy case: a write to the BUF window stores the low bytes of the value, low byte first, and a read
returns the bytes in that order, zero-extended. -/
def Obligations.BufWindowIsLittleEndian : Prop :=
  ∀ (s : State) (w : Width) (a : Nat) (v : Word), s.busy = false → a % w.bytes = 0 →
    a + w.bytes ≤ s.params.bufSize → 0x800 + a < 0x1000 →
    (s.script.head? = some (.write w (0x800 + a) v) →
        ∃ t, step s = .next t ∧ (∀ i < w.bytes, t.bufByte (a + i) = v.extractLsb' (8 * i) 8)
          ∧ BufSameOutside s t a (a + w.bytes) ∧ t = { s with mem := t.mem, script := s.script.tail })
      ∧ (s.script.head? = some (.read w (0x800 + a)) →
        ∃ r : Word, step s = .next { s with busData := some r, script := s.script.tail }
          ∧ (∀ i < w.bytes, r.extractLsb' (8 * i) 8 = s.bufByte (a + i))
          ∧ ∀ i < 4, w.bytes ≤ i → r.extractLsb' (8 * i) 8 = 0#8)

/-- R77: after a 32-bit write of v at BUF offset a, an 8-bit read at a + i returns byte i of v and a 16-bit read at a + 2 its
upper half. -/
def Obligations.MixedWidthReadsSeeTheWord : Prop :=
  ∀ (s : State) (a i : Nat) (v : Word) (rest : List Turn), s.busy = false → a % 4 = 0 → i < 4 →
    a + 4 ≤ s.params.bufSize → 0x800 + a < 0x1000 →
    (s.script = .write .w32 (0x800 + a) v :: .read .w8 (0x800 + a + i) :: rest →
        ∃ t u, step s = .next t ∧ step t = .next u ∧ u.busData = some ((v.extractLsb' (8 * i) 8).setWidth 32))
      ∧ (s.script = .write .w32 (0x800 + a) v :: .read .w16 (0x800 + a + 2) :: rest →
        ∃ t u, step s = .next t ∧ step t = .next u ∧ u.busData = some ((v.extractLsb' 16 16).setWidth 32))

/-- R74 and R72: while BUSY, a byte of the pending command's write region (R105: the parity for RS_ENCODE, the word for
RS_DECODE, the first 4 and the last 34 bytes of the block for BUILD_DATA and BUILD_SUPER, the block for VERIFY, nothing
otherwise or when the range check fails) reads as a draw of its own, any other byte as its content, and the bytes of the bus
value above the access width are 0.  The draw indexes and their counter are the model's own (log entry 3), and so is the
region of a command that would end with E_CONFIG or E_ARG (log entry 8); PendingWriteRegionByteByByte says which bytes the
region holds. -/
def Obligations.BusyReadsOfTheWriteRegionAreDraws : Prop :=
  ∀ (s : State) (w : Width) (a : Nat), s.busy = true → s.script.head? = some (.read w (0x800 + a)) →
    a % w.bytes = 0 → a + w.bytes ≤ s.params.bufSize → 0x800 + a < 0x1000 →
    ∃ (r : Word) (d : Nat), step s = .next { s with
          busData := some r, draws := s.draws + d, script := s.script.tail }
      ∧ (∀ i < w.bytes, (s.inWriteRegion (a + i) = true →
            i < d ∧ r.extractLsb' (8 * i) 8 = Config.freeByte (s.draws + i))
          ∧ (s.inWriteRegion (a + i) = false → r.extractLsb' (8 * i) 8 = s.bufByte (a + i)))
      ∧ ∀ i < 4, w.bytes ≤ i → r.extractLsb' (8 * i) 8 = 0#8

/-- R105, byte by byte: the write region of a pending command.  RS_ENCODE: off+k to off+L−1; RS_DECODE: off to off+L−1;
BUILD_DATA and BUILD_SUPER: base to base+3 and base+94 to base+127; VERIFY: base to base+127; each empty when the range check
fails.  It is empty for every other command and for a reserved word (R103).  k = N − NECC − PAD and L = N − PAD are integers:
that the formulas also hold for a command that would end with E_CONFIG or E_ARG is the model's choice (log entry 8). -/
def Obligations.PendingWriteRegionByteByByte : Prop :=
  ∀ (s : State) (a : Nat),
    let off : Int := (s.arg0.toNat : Int)
    let size : Int := (s.params.bufSize : Int)
    let n : Int := ((s.codecCfg.toNat % 256 : Nat) : Int)
    let necc : Int := ((s.codecCfg.toNat / 256 % 256 : Nat) : Int)
    let pad : Int := ((s.codecCfg.toNat / 65536 % 256 : Nat) : Int)
    (s.pending = 0x00000005#32 → (s.inWriteRegion a = true
        ↔ off + (n - pad) ≤ size ∧ off + (n - necc - pad) ≤ (a : Int) ∧ (a : Int) < off + (n - pad)))
      ∧ (s.pending = 0x00000006#32 → (s.inWriteRegion a = true
        ↔ off + (n - pad) ≤ size ∧ off ≤ (a : Int) ∧ (a : Int) < off + (n - pad)))
      ∧ (s.pending = 0x00000007#32 ∨ s.pending = 0x00000008#32 → (s.inWriteRegion a = true
        ↔ off + 128 ≤ size ∧ ((off ≤ (a : Int) ∧ (a : Int) < off + 4)
          ∨ (off + 94 ≤ (a : Int) ∧ (a : Int) < off + 128))))
      ∧ (s.pending = 0x00000009#32 → (s.inWriteRegion a = true
        ↔ off + 128 ≤ size ∧ off ≤ (a : Int) ∧ (a : Int) < off + 128))
      ∧ (s.pending.toNat < 5 ∨ 9 < s.pending.toNat → s.inWriteRegion a = false)

/-- R70: a host address reaches the window iff it lies within 4096 bytes of PBK_BASE, and the offset is the distance. -/
def Obligations.HostAddressesMapToWindowOffsets : Prop :=
  ∀ (p : Params) (addr off : Nat),
    windowOffset p addr = some off ↔ (addr = p.pbkBase + off ∧ off < 0x1000)

/-! ### Whole-machine rules -/

/-- The invariant holds right after a hard reset. -/
def Obligations.InvariantHoldsAtReset : Prop := State.reset.Inv

/-- Every step keeps the invariant: the parameters stay legal, BUSY and DONE are never both 1 (R40), no command is latched
before the tables are built (R276), the tables are the parameters' own while READY is 1 and invalid otherwise (R52, R55),
the reserved bits of CODEC_CFG stay 0 (R46), and BUF keeps its canonical form (R50). -/
def Obligations.EveryStepKeepsTheInvariant : Prop :=
  ∀ s t : State, s.Inv → step s = .next t → t.Inv

/-- R41: WIGN is sticky; only a CTRL write with SRST or WIGN_CLR, or a hard reset, clears it. -/
def Obligations.WignIsStickyUntilCleared : Prop :=
  ∀ s t : State, step s = .next t → s.wign = true → t.wign = false →
    s.script.head? = some .hardReset
      ∨ ∃ v : Word, s.script.head? = some (.write .w32 0x008 v) ∧ (v.getLsbD 0 = true ∨ v.getLsbD 1 = true)

/-- R52 and R274: READY and the tables are lost by a reset only, and the tables are written by the initialisation step
only; the parameters never change. -/
def Obligations.TablesNeverChangeAfterInitialisation : Prop :=
  ∀ s t : State, step s = .next t → t.params = s.params
    ∧ ((t.ready = s.ready ∧ t.tables = s.tables)
      ∨ (s.ready = false ∧ s.engineNext ∧ t.ready = true ∧ t.tables = Tables.build s.params)
      ∨ s.script.head? = some .hardReset
      ∨ ∃ v : Word, s.script.head? = some (.write .w32 0x008 v) ∧ v.getLsbD 0 = true)

/-- R37 and R43: RESULT0, RESULT1 and ERR change only when a command ends, when a CMD write is rejected before READY, and at
a reset. -/
def Obligations.ResultsChangeOnlyAtCommandEnds : Prop :=
  ∀ s t : State, step s = .next t → (t.result0 ≠ s.result0 ∨ t.result1 ≠ s.result1 ∨ t.err ≠ s.err) →
    (s.engineNext ∧ s.ready = true ∧ s.busy = true ∧ t.busy = false ∧ t.done = true)
      ∨ (s.ready = false ∧ ∃ w : Word, s.script.head? = some (.write .w32 0x010 w) ∧ t.err = .eNotReady)
      ∨ s.script.head? = some .hardReset
      ∨ ∃ v : Word, s.script.head? = some (.write .w32 0x008 v) ∧ v.getLsbD 0 = true

/-- R80 and R89: between its acceptance and its end, no host access but a reset changes what a pending command reads or
gives: whatever the host does, the command ends with the same ERR, RESULT0, RESULT1 and BUF.  The word is a command; how a
pending reserved word ends is ReservedWordsEndWithBadOpcode. -/
def Obligations.PendingCommandSeesAcceptedInputs : Prop :=
  ∀ (hs rest : List Turn) (s u : State) (i : Instr),
    s.script = hs ++ rest → s.busy = true → s.ready = true → decodeWord s.pending = .ok i →
    (∀ h ∈ hs, h ≠ .engine ∧ h ≠ .hardReset ∧ ∀ v : Word, v.getLsbD 0 = true → h ≠ .write .w32 0x008 v) →
    Host.Core.run Sys2Proof.core hs.length s = .next u →
    decodeWord u.pending = .ok i ∧ u.script = rest
      ∧ ∃ t t', exec i s = .next t ∧ exec i u = .next t'
        ∧ t'.err = t.err ∧ t'.result0 = t.result0 ∧ t'.result1 = t.result1 ∧ BufSame t t'

/-- R249, R250 and R43: every command ends, in one step, with BUSY 0 and DONE 1, and writes nothing but STATUS, RESULT0,
RESULT1 and BUF; on an error it writes no BUF byte, and both results are 0 but for VERIFY's two decode failures. -/
def Obligations.EveryCommandEnds : Prop :=
  ∀ (i : Instr) (s : State), ∃ t, exec i s = .next t ∧ t.busy = false ∧ t.done = true ∧ SameBesideEnd s t
    ∧ (t.err ≠ .eNone → BufSame s t
        ∧ ((t.result0 = 0#32 ∧ t.result1 = 0#32)
          ∨ (i = .verify ∧ t.err = .eUncorrectable ∧ t.result0 = 3#32 ∧ t.result1 = 0#32)
          ∨ (i = .verify ∧ t.err = .eChecksum ∧ t.result0 = 4#32 ∧ t.result1.toNat ≤ 16)))

/-- R244 to R247: which command reports which of the errors found before it executes, in the order configuration, range,
argument. -/
def Obligations.ErrorsAreReportedInCheckOrder : Prop :=
  ∀ (i : Instr) (s t : State), exec i s = .next t →
    let cfgFails := (i = .rsEncode ∨ i = .rsDecode) ∧ s.codec.valid = false
    let rangeFails :=
      ((i = .crc16 ∨ i = .polyEval) ∧ s.params.bufSize < s.arg0.toNat + s.arg1.toNat)
        ∨ ((i = .rsEncode ∨ i = .rsDecode) ∧ s.params.bufSize < s.arg0.toNat + (s.codec.n - s.codec.pad))
        ∨ ((i = .buildData ∨ i = .buildSuper ∨ i = .verify) ∧ s.params.bufSize < s.arg0.toNat + 128)
        ∨ (i = .blockKind ∧ s.params.bufSize < s.arg0.toNat + 4)
    let argFails := (i = .gfDiv ∧ s.arg1.extractLsb' 0 8 = 0#8) ∨ (i = .buildData ∧ s.arg1 = 0xFFFFFFFF#32)
    (t.err = .eConfig ↔ cfgFails) ∧ (t.err = .eRange ↔ ¬ cfgFails ∧ rangeFails)
      ∧ (t.err = .eArg ↔ ¬ cfgFails ∧ ¬ rangeFails ∧ argFails)
      ∧ t.err ≠ .eNotReady ∧ t.err ≠ .eBadOpcode
      ∧ (t.err = .eUncorrectable → i = .rsDecode ∨ i = .verify) ∧ (t.err = .eChecksum → i = .verify)

/-- R105 and R51: a command writes BUF inside its write region only, and for CRC16, GF_MUL, GF_DIV, POLY_EVAL and BLOCK_KIND
that region is empty.  The region is the one the model's busy reads and aborts use. -/
def Obligations.CommandsWriteInsideTheirRegion : Prop :=
  ∀ (i : Instr) (s t : State), exec i s = .next t →
    (∀ a, regionOf i s a = false → t.bufByte a = s.bufByte a)
      ∧ (∀ a, s.params.bufSize ≤ a → regionOf i s a = false)
      ∧ (i = .crc16 ∨ i = .gfMul ∨ i = .gfDiv ∨ i = .polyEval ∨ i = .blockKind → t.mem = s.mem)

/-! ### The CRC16 engine -/

/-- R133: the table form of crc16 equals the bit-serial form, for every parameter and every byte sequence. -/
def Obligations.TableCrcEqualsBitSerialCrc : Prop :=
  ∀ (p : Params) (bytes : List Byte), crc16 p (Tables.build p) bytes = crcSerial p bytes

/-- R135: CRC16 completes with the CRC of the span when the span fits, and ends with E_RANGE when it does not; it never
writes BUF. -/
def Obligations.Crc16CommandResult : Prop :=
  decodeWord 0x00000001#32 = .ok .crc16 ∧ ∀ s : State, s.Initialised →
    (s.arg0.toNat + s.arg1.toNat ≤ s.params.bufSize → ∃ t, exec .crc16 s = .next t ∧ t.mem = s.mem
        ∧ EndsWith s t .eNone
          ((crcSerial s.params (s.memRead s.arg0.toNat s.arg1.toNat)).setWidth 32) 0#32)
      ∧ (s.params.bufSize < s.arg0.toNat + s.arg1.toNat → ∃ t, exec .crc16 s = .next t ∧ t.mem = s.mem
        ∧ EndsWith s t .eRange 0#32 0#32)

/-! ### GF(256) -/

/-- R157, and the last sentence of R153: over the built tables gf_mul is the carry-less product reduced by the field
polynomial, the bytes with it and exclusive or are a field, and a polynomial at 0 is its last coefficient. -/
def Obligations.TableArithmeticIsAField : Prop :=
  ∀ p : Params, p.wellFormed = true → ∀ (a b c : Byte) (q : List Byte),
    gfMul (Tables.build p) a b = fieldMul p.rsGfPoly a b
      ∧ gfMul (Tables.build p) a b = gfMul (Tables.build p) b a
      ∧ gfMul (Tables.build p) (gfMul (Tables.build p) a b) c = gfMul (Tables.build p) a (gfMul (Tables.build p) b c)
      ∧ gfMul (Tables.build p) a (b ^^^ c) = gfMul (Tables.build p) a b ^^^ gfMul (Tables.build p) a c
      ∧ gfMul (Tables.build p) 1#8 a = a ∧ gfMul (Tables.build p) 0#8 a = 0#8
      ∧ (a ≠ 0#8 → gfMul (Tables.build p) a (gfInv (Tables.build p) a) = 1#8)
      ∧ (b ≠ 0#8 → gfDiv (Tables.build p) (gfMul (Tables.build p) a b) b = a)
      ∧ (gfMul (Tables.build p) a b = 0#8 ↔ a = 0#8 ∨ b = 0#8)
      ∧ polyEval (Tables.build p) q 0#8 = q.getLastD 0#8

/-- R160: GF_MUL always completes, with the product of the low bytes of ARG0 and ARG1. -/
def Obligations.GfMulCommandResult : Prop :=
  decodeWord 0x00000002#32 = .ok .gfMul ∧ ∀ s : State, s.Initialised → ∃ t, exec .gfMul s = .next t ∧ t.mem = s.mem
    ∧ EndsWith s t .eNone
      ((fieldMul s.params.rsGfPoly (s.arg0.extractLsb' 0 8) (s.arg1.extractLsb' 0 8)).setWidth 32) 0#32

/-- R161: GF_DIV completes with the one quotient when the low byte of ARG1 is not 0, and ends with E_ARG when it is,
whatever the dividend. -/
def Obligations.GfDivCommandResult : Prop :=
  decodeWord 0x00000003#32 = .ok .gfDiv ∧ ∀ s : State, s.Initialised →
    (s.arg1.extractLsb' 0 8 ≠ 0#8 → ∃ t q, exec .gfDiv s = .next t ∧ t.mem = s.mem
        ∧ EndsWith s t .eNone (BitVec.setWidth 32 (q : Byte)) 0#32
        ∧ ∀ x : Byte, fieldMul s.params.rsGfPoly x (s.arg1.extractLsb' 0 8) = s.arg0.extractLsb' 0 8 ↔ x = q)
      ∧ (s.arg1.extractLsb' 0 8 = 0#8 → ∃ t, exec .gfDiv s = .next t ∧ t.mem = s.mem
        ∧ EndsWith s t .eArg 0#32 0#32)

/-- R162: POLY_EVAL completes with the value of the polynomial in the span when the span fits, and ends with E_RANGE when it
does not. -/
def Obligations.PolyEvalCommandResult : Prop :=
  decodeWord 0x00000004#32 = .ok .polyEval ∧ ∀ s : State, s.Initialised →
    (s.arg0.toNat + s.arg1.toNat ≤ s.params.bufSize → ∃ t, exec .polyEval s = .next t ∧ t.mem = s.mem
        ∧ EndsWith s t .eNone
          ((fieldEval s.params.rsGfPoly (s.memRead s.arg0.toNat s.arg1.toNat)
            (s.arg2.extractLsb' 0 8)).setWidth 32) 0#32)
      ∧ (s.params.bufSize < s.arg0.toNat + s.arg1.toNat → ∃ t, exec .polyEval s = .next t ∧ t.mem = s.mem
        ∧ EndsWith s t .eRange 0#32 0#32)

/-! ### The Reed-Solomon codec -/

/-- R177, first point: two different words of one length that are both codewords differ in more than NECC symbols. -/
def Obligations.CodewordsDifferInMoreThanNeccSymbols : Prop :=
  ∀ (p : Params) (necc : Nat) (c d : List Byte), p.wellFormed = true → c.length = d.length → c.length ≤ 255 →
    IsCodeword p necc c → IsCodeword p necc d → c ≠ d → necc < symbolErrors c d

/-- R173: the message followed by its parity is a codeword, with NECC parity symbols. -/
def Obligations.ParityCompletesACodeword : Prop :=
  ∀ (p : Params) (necc : Nat) (m : List Byte), p.wellFormed = true →
    (rsParity p (Tables.build p) necc m).length = necc
      ∧ IsCodeword p necc (m ++ rsParity p (Tables.build p) necc m)

/-- R175 for the reference algorithm of R176: on a word of at most 255 symbols it returns OK(r', w) exactly when r' is a
codeword of that length at distance w ≤ t; so it fails exactly when there is none. -/
def Obligations.ReferenceDecoderIsBoundedDistance : Prop :=
  ∀ (p : Params) (necc : Nat) (r r' : List Byte) (w : Nat), p.wellFormed = true →
    1 ≤ necc → necc + 1 ≤ r.length → r.length ≤ 255 →
    (rsCorrect p (Tables.build p) necc r = some (r', w)
      ↔ r'.length = r.length ∧ IsCodeword p necc r' ∧ symbolErrors r r' = w ∧ w ≤ necc / 2)

/-- R177, last point, and R179: whatever the received word, a result of the decoder is a codeword of its length that
differs from it in at most w symbols, w being at most t. -/
def Obligations.DecoderNeverReturnsANonCodeword : Prop :=
  ∀ (p : Params) (necc : Nat) (r r' : List Byte) (w : Nat), p.wellFormed = true →
    rsCorrect p (Tables.build p) necc r = some (r', w) →
    r'.length = r.length ∧ IsCodeword p necc r' ∧ symbolErrors r r' ≤ w ∧ w ≤ necc / 2

/-- R180: RS_ENCODE completes for a valid configuration and a word that fits: the word in BUF is then a codeword, the
message and every byte outside the parity as before. -/
def Obligations.RsEncodeCommandResult : Prop :=
  ∀ s : State, s.Initialised → s.codec.valid = true →
    s.arg0.toNat + (s.codec.n - s.codec.pad) ≤ s.params.bufSize →
    ∃ t, exec .rsEncode s = .next t ∧ EndsWith s t .eNone 0#32 0#32
      ∧ IsCodeword s.params s.codec.necc (t.memRead s.arg0.toNat (s.codec.n - s.codec.pad))
      ∧ BufSameOutside s t (s.arg0.toNat + (s.codec.n - s.codec.necc - s.codec.pad))
          (s.arg0.toNat + (s.codec.n - s.codec.pad))

/-- R178 and R181 on a codeword: RS_DECODE completes with count 0 and BUF as it was. -/
def Obligations.RsDecodeAcceptsACodeword : Prop :=
  ∀ s : State, s.Initialised → s.codec.valid = true →
    s.arg0.toNat + (s.codec.n - s.codec.pad) ≤ s.params.bufSize →
    IsCodeword s.params s.codec.necc (s.memRead s.arg0.toNat (s.codec.n - s.codec.pad)) →
    ∃ t, exec .rsDecode s = .next t ∧ EndsWith s t .eNone 0#32 0#32 ∧ BufSame s t

/-- R177, second point, for RS_DECODE: a codeword with w ≤ t wrong symbols, parity symbols among them, is restored, and the
count is w. -/
def Obligations.RsDecodeRestoresUpToBoundErrors : Prop :=
  ∀ (s : State) (c : List Byte), s.Initialised → s.codec.valid = true →
    s.arg0.toNat + (s.codec.n - s.codec.pad) ≤ s.params.bufSize →
    c.length = s.codec.n - s.codec.pad → IsCodeword s.params s.codec.necc c →
    symbolErrors (s.memRead s.arg0.toNat (s.codec.n - s.codec.pad)) c ≤ s.codec.necc / 2 →
    ∃ t, exec .rsDecode s = .next t
      ∧ EndsWith s t .eNone
          (BitVec.ofNat 32 (symbolErrors (s.memRead s.arg0.toNat (s.codec.n - s.codec.pad)) c)) 0#32
      ∧ t.memRead s.arg0.toNat (s.codec.n - s.codec.pad) = c
      ∧ BufSameOutside s t s.arg0.toNat (s.arg0.toNat + (s.codec.n - s.codec.pad))

/-- R175, R178, R179 and R248: however RS_DECODE ends, either it succeeded and the word in BUF is a codeword that differs from
the received word in exactly RESULT0 symbols, at most t, RESULT1 being 0; or it failed and BUF is as it was and both results
are 0.  It ends with E_UNCORRECTABLE iff the configuration is valid, the word fits, and no codeword of its length lies within
t symbols of it. -/
def Obligations.RsDecodeNeverLeavesACorruptedWord : Prop :=
  ∀ s : State, s.Initialised → ∃ t, exec .rsDecode s = .next t ∧ SameBesideEnd s t
    ∧ BufSameOutside s t s.arg0.toNat (s.arg0.toNat + (s.codec.n - s.codec.pad))
    ∧ ((t.err = .eNone ∧ IsCodeword s.params s.codec.necc (t.memRead s.arg0.toNat (s.codec.n - s.codec.pad))
          ∧ symbolErrors (s.memRead s.arg0.toNat (s.codec.n - s.codec.pad))
              (t.memRead s.arg0.toNat (s.codec.n - s.codec.pad)) = t.result0.toNat
          ∧ t.result0.toNat ≤ s.codec.necc / 2 ∧ t.result1 = 0#32)
      ∨ ((t.err = .eConfig ∨ t.err = .eRange ∨ t.err = .eUncorrectable) ∧ BufSame s t
          ∧ t.result0 = 0#32 ∧ t.result1 = 0#32))
    ∧ (t.err = .eUncorrectable ↔ s.codec.valid = true
        ∧ s.arg0.toNat + (s.codec.n - s.codec.pad) ≤ s.params.bufSize
        ∧ ∀ c : List Byte, c.length = s.codec.n - s.codec.pad → IsCodeword s.params s.codec.necc c →
            s.codec.necc / 2 < symbolErrors (s.memRead s.arg0.toNat (s.codec.n - s.codec.pad)) c)

/-! ### Blocks -/

/-- R220, R200 and R205: BUILD_DATA on a block that fits, with an address that is not the sentinel, completes: the block in
BUF has the address, the payload that stood there, and is well formed; RESULT0 is the stored checksum.  Range is checked
before the address. -/
def Obligations.BuildDataCommandResult : Prop :=
  decodeWord 0x00000007#32 = .ok .buildData ∧ ∀ s : State, s.Initialised →
    (s.arg0.toNat + 128 ≤ s.params.bufSize → s.arg1 ≠ 0xFFFFFFFF#32 →
      ∃ t, exec .buildData s = .next t
        ∧ EndsWith s t .eNone ((checksumField (t.memRead s.arg0.toNat 128)).setWidth 32) 0#32
        ∧ IsBlock s.params (t.memRead s.arg0.toNat 128)
        ∧ (∀ i < 4, t.bufByte (s.arg0.toNat + i) = s.arg1.extractLsb' (8 * i) 8)
        ∧ (∀ a, ¬ (s.arg0.toNat ≤ a ∧ a < s.arg0.toNat + 4) → ¬ (s.arg0.toNat + 94 ≤ a ∧ a < s.arg0.toNat + 128) →
            t.bufByte a = s.bufByte a))
      ∧ (s.params.bufSize < s.arg0.toNat + 128 →
        ∃ t, exec .buildData s = .next t ∧ EndsWith s t .eRange 0#32 0#32 ∧ t.mem = s.mem)
      ∧ (s.arg0.toNat + 128 ≤ s.params.bufSize → s.arg1 = 0xFFFFFFFF#32 →
        ∃ t, exec .buildData s = .next t ∧ EndsWith s t .eArg 0#32 0#32 ∧ t.mem = s.mem)

/-- R221: BUILD_SUPER is the same with the sentinel as the address, whatever ARG1 holds. -/
def Obligations.BuildSuperCommandResult : Prop :=
  decodeWord 0x00000008#32 = .ok .buildSuper ∧ ∀ s : State, s.Initialised →
    (s.arg0.toNat + 128 ≤ s.params.bufSize →
      ∃ t, exec .buildSuper s = .next t
        ∧ EndsWith s t .eNone ((checksumField (t.memRead s.arg0.toNat 128)).setWidth 32) 0#32
        ∧ IsBlock s.params (t.memRead s.arg0.toNat 128)
        ∧ (∀ i < 4, t.bufByte (s.arg0.toNat + i) = 0xFF#8)
        ∧ (∀ a, ¬ (s.arg0.toNat ≤ a ∧ a < s.arg0.toNat + 4) → ¬ (s.arg0.toNat + 94 ≤ a ∧ a < s.arg0.toNat + 128) →
            t.bufByte a = s.bufByte a))
      ∧ (s.params.bufSize < s.arg0.toNat + 128 →
        ∃ t, exec .buildSuper s = .next t ∧ EndsWith s t .eRange 0#32 0#32 ∧ t.mem = s.mem)

/-- R222 and R209 on a well-formed block: VERIFY completes INTACT, with the kind of the address in bit 8 of RESULT1 and BUF as
it was, whatever CODEC_CFG holds (R107). -/
def Obligations.VerifyReportsAnIntactBlock : Prop :=
  ∀ s : State, s.Initialised → s.arg0.toNat + 128 ≤ s.params.bufSize →
    IsBlock s.params (s.memRead s.arg0.toNat 128) →
    ∃ t, exec .verify s = .next t ∧ BufSame s t
      ∧ EndsWith s t .eNone 1#32 (if HasSentinel (s.memRead s.arg0.toNat 128) then 0x100#32 else 0#32)

/-- R224, second point: a well-formed block of which 1 to 16 bytes are wrong, wherever they lie, is restored, and VERIFY
reports CORRECTED with the count and the kind of the corrected address. -/
def Obligations.VerifyCorrectsUpToSixteenBytes : Prop :=
  ∀ (s : State) (block : List Byte), s.Initialised → s.arg0.toNat + 128 ≤ s.params.bufSize →
    IsBlock s.params block → 1 ≤ symbolErrors (s.memRead s.arg0.toNat 128) block →
    symbolErrors (s.memRead s.arg0.toNat 128) block ≤ 16 →
    ∃ t, exec .verify s = .next t
      ∧ EndsWith s t .eNone 2#32 (BitVec.ofNat 32
          ((if HasSentinel block then 256 else 0) + symbolErrors (s.memRead s.arg0.toNat 128) block))
      ∧ t.memRead s.arg0.toNat 128 = block ∧ BufSameOutside s t s.arg0.toNat (s.arg0.toNat + 128)

/-- R222, R209 and R215: when a codeword with a bad checksum lies at distance w ≤ 16 from the bytes in BUF (w = 0: the bytes
themselves), VERIFY ends with E_CHECKSUM, RESULT0 = 4 and RESULT1 = w, and BUF is as it was. -/
def Obligations.VerifyReportsAChecksumMismatch : Prop :=
  ∀ (s : State) (c : List Byte), s.Initialised → s.arg0.toNat + 128 ≤ s.params.bufSize →
    c.length = 128 → IsCodeword s.params 32 c → symbolErrors (s.memRead s.arg0.toNat 128) c ≤ 16 →
    crcSerial s.params (c.take 94) ≠ checksumField c ^^^ 0x55AA#16 →
    ∃ t, exec .verify s = .next t ∧ t.mem = s.mem
      ∧ EndsWith s t .eChecksum 4#32 (BitVec.ofNat 32 (symbolErrors (s.memRead s.arg0.toNat 128) c))

/-- R209, R215, R246 and R248: VERIFY ends in one of its four outcomes or with E_RANGE, and BUF changes in none but INTACT and
CORRECTED, after which the block in BUF is well formed and differs from the bytes before in exactly the counted number of
bytes.  E_UNCORRECTABLE is raised iff the block fits and no codeword lies within 16 bytes of it; E_CHECKSUM is raised with the
distance of the codeword whose checksum is bad. -/
def Obligations.VerifyHasFourOutcomes : Prop :=
  ∀ s : State, s.Initialised → ∃ t, exec .verify s = .next t ∧ SameBesideEnd s t
    ∧ BufSameOutside s t s.arg0.toNat (s.arg0.toNat + 128)
    ∧ ((t.err = .eNone ∧ IsBlock s.params (t.memRead s.arg0.toNat 128)
          ∧ ((t.result0 = 1#32 ∧ t.result1.extractLsb' 0 8 = 0#8 ∧ BufSame s t)
            ∨ (t.result0 = 2#32 ∧ 1 ≤ t.result1.toNat % 256 ∧ t.result1.toNat % 256 ≤ 16))
          ∧ symbolErrors (s.memRead s.arg0.toNat 128) (t.memRead s.arg0.toNat 128) = t.result1.toNat % 256
          ∧ (t.result1.toNat / 256 = 0 ∨ t.result1.toNat / 256 = 1)
          ∧ (t.result1.toNat / 256 = 1 ↔ HasSentinel (t.memRead s.arg0.toNat 128)))
      ∨ (t.err = .eUncorrectable ∧ t.result0 = 3#32 ∧ t.result1 = 0#32 ∧ t.mem = s.mem)
      ∨ (t.err = .eChecksum ∧ t.result0 = 4#32 ∧ t.result1.toNat ≤ 16 ∧ t.mem = s.mem
          ∧ ∃ c : List Byte, c.length = 128 ∧ IsCodeword s.params 32 c
            ∧ symbolErrors (s.memRead s.arg0.toNat 128) c = t.result1.toNat
            ∧ crcSerial s.params (c.take 94) ≠ checksumField c ^^^ 0x55AA#16)
      ∨ (t.err = .eRange ∧ s.params.bufSize < s.arg0.toNat + 128 ∧ t.result0 = 0#32 ∧ t.result1 = 0#32
          ∧ t.mem = s.mem))
    ∧ (t.err = .eUncorrectable ↔ s.arg0.toNat + 128 ≤ s.params.bufSize
        ∧ ∀ c : List Byte, c.length = 128 → IsCodeword s.params 32 c →
            16 < symbolErrors (s.memRead s.arg0.toNat 128) c)

/-- R224, first and last points: a block that BUILD_DATA or BUILD_SUPER has just built verifies INTACT, with the kind of its
address and every byte as it was built. -/
def Obligations.BuiltBlocksVerifyIntact : Prop :=
  ∀ s : State, s.Initialised → s.arg0.toNat + 128 ≤ s.params.bufSize →
    (s.arg1 ≠ 0xFFFFFFFF#32 → ∃ t u, exec .buildData s = .next t ∧ exec .verify t = .next u
        ∧ EndsWith t u .eNone 1#32 0#32 ∧ BufSame t u)
      ∧ ∃ t u, exec .buildSuper s = .next t ∧ exec .verify t = .next u
        ∧ EndsWith t u .eNone 1#32 0x100#32 ∧ BufSame t u

/-- R208: the all-zero block is a codeword, so VERIFY reports it FAILED_CHECKSUM unless the CRC of 94 zero bytes is
0x55AA. -/
def Obligations.AllZeroBlockFailsUnlessCrcIsMask : Prop :=
  ∀ s : State, s.Initialised → s.arg0.toNat + 128 ≤ s.params.bufSize →
    s.memRead s.arg0.toNat 128 = List.replicate 128 0#8 →
    ∃ t, exec .verify s = .next t
      ∧ if crcSerial s.params (List.replicate 94 0#8) = 0x55AA#16 then EndsWith s t .eNone 1#32 0#32
        else EndsWith s t .eChecksum 4#32 0#32

/-- R223: BLOCK_KIND completes with 1 for the sentinel address and 0 for any other when the four address bytes fit, and ends
with E_RANGE when they do not. -/
def Obligations.BlockKindCommandResult : Prop :=
  decodeWord 0x0000000A#32 = .ok .blockKind ∧ ∀ s : State,
    (s.arg0.toNat + 4 ≤ s.params.bufSize → ∃ t, exec .blockKind s = .next t ∧ t.mem = s.mem
        ∧ EndsWith s t .eNone (if HasSentinel (s.memRead s.arg0.toNat 4) then 1#32 else 0#32) 0#32)
      ∧ (s.params.bufSize < s.arg0.toNat + 4 → ∃ t, exec .blockKind s = .next t ∧ t.mem = s.mem
        ∧ EndsWith s t .eRange 0#32 0#32)
end

