-- ==== Sys2Proof/Laws/State.lean ====
section
/-! SUPPORT. One lemma per field for each named update of the state. -/

namespace Sys2Proof.Machine

/-! ### endCommand -/

section

variable (s : State) (e : ErrCode) (r0 r1 : Word)

@[simp] theorem State.endCommand_params : (s.endCommand e r0 r1).params = s.params := rfl
@[simp] theorem State.endCommand_ready : (s.endCommand e r0 r1).ready = s.ready := rfl
@[simp] theorem State.endCommand_busy : (s.endCommand e r0 r1).busy = false := rfl
@[simp] theorem State.endCommand_done : (s.endCommand e r0 r1).done = true := rfl
@[simp] theorem State.endCommand_wign : (s.endCommand e r0 r1).wign = s.wign := rfl
@[simp] theorem State.endCommand_err : (s.endCommand e r0 r1).err = e := rfl
@[simp] theorem State.endCommand_arg0 : (s.endCommand e r0 r1).arg0 = s.arg0 := rfl
@[simp] theorem State.endCommand_arg1 : (s.endCommand e r0 r1).arg1 = s.arg1 := rfl
@[simp] theorem State.endCommand_arg2 : (s.endCommand e r0 r1).arg2 = s.arg2 := rfl
@[simp] theorem State.endCommand_codecCfg : (s.endCommand e r0 r1).codecCfg = s.codecCfg := rfl
@[simp] theorem State.endCommand_result0 : (s.endCommand e r0 r1).result0 = r0 := rfl
@[simp] theorem State.endCommand_result1 : (s.endCommand e r0 r1).result1 = r1 := rfl
@[simp] theorem State.endCommand_pending : (s.endCommand e r0 r1).pending = s.pending := rfl
@[simp] theorem State.endCommand_tables : (s.endCommand e r0 r1).tables = s.tables := rfl
@[simp] theorem State.endCommand_mem : (s.endCommand e r0 r1).mem = s.mem := rfl
@[simp] theorem State.endCommand_bufDraw : (s.endCommand e r0 r1).bufDraw = s.bufDraw := rfl
@[simp] theorem State.endCommand_draws : (s.endCommand e r0 r1).draws = s.draws := rfl
@[simp] theorem State.endCommand_script : (s.endCommand e r0 r1).script = s.script := rfl
@[simp] theorem State.endCommand_busData : (s.endCommand e r0 r1).busData = s.busData := rfl

end

/-! ### memWrite -/

section

variable (s : State) (a : Nat) (bs : List Byte)

@[simp] theorem State.memWrite_params : (s.memWrite a bs).params = s.params := rfl
@[simp] theorem State.memWrite_ready : (s.memWrite a bs).ready = s.ready := rfl
@[simp] theorem State.memWrite_busy : (s.memWrite a bs).busy = s.busy := rfl
@[simp] theorem State.memWrite_done : (s.memWrite a bs).done = s.done := rfl
@[simp] theorem State.memWrite_wign : (s.memWrite a bs).wign = s.wign := rfl
@[simp] theorem State.memWrite_err : (s.memWrite a bs).err = s.err := rfl
@[simp] theorem State.memWrite_arg0 : (s.memWrite a bs).arg0 = s.arg0 := rfl
@[simp] theorem State.memWrite_arg1 : (s.memWrite a bs).arg1 = s.arg1 := rfl
@[simp] theorem State.memWrite_arg2 : (s.memWrite a bs).arg2 = s.arg2 := rfl
@[simp] theorem State.memWrite_codecCfg : (s.memWrite a bs).codecCfg = s.codecCfg := rfl
@[simp] theorem State.memWrite_result0 : (s.memWrite a bs).result0 = s.result0 := rfl
@[simp] theorem State.memWrite_result1 : (s.memWrite a bs).result1 = s.result1 := rfl
@[simp] theorem State.memWrite_pending : (s.memWrite a bs).pending = s.pending := rfl
@[simp] theorem State.memWrite_tables : (s.memWrite a bs).tables = s.tables := rfl
@[simp] theorem State.memWrite_mem : (s.memWrite a bs).mem = Memory.storeAll s.mem a bs := rfl
@[simp] theorem State.memWrite_bufDraw : (s.memWrite a bs).bufDraw = s.bufDraw := rfl
@[simp] theorem State.memWrite_draws : (s.memWrite a bs).draws = s.draws := rfl
@[simp] theorem State.memWrite_script : (s.memWrite a bs).script = s.script := rfl
@[simp] theorem State.memWrite_busData : (s.memWrite a bs).busData = s.busData := rfl

end

/-! ### accept -/

section

variable (s : State) (w : Word)

@[simp] theorem State.accept_params : (s.accept w).params = s.params := rfl
@[simp] theorem State.accept_ready : (s.accept w).ready = s.ready := rfl
@[simp] theorem State.accept_busy : (s.accept w).busy = true := rfl
@[simp] theorem State.accept_done : (s.accept w).done = false := rfl
@[simp] theorem State.accept_wign : (s.accept w).wign = s.wign := rfl
@[simp] theorem State.accept_err : (s.accept w).err = s.err := rfl
@[simp] theorem State.accept_arg0 : (s.accept w).arg0 = s.arg0 := rfl
@[simp] theorem State.accept_arg1 : (s.accept w).arg1 = s.arg1 := rfl
@[simp] theorem State.accept_arg2 : (s.accept w).arg2 = s.arg2 := rfl
@[simp] theorem State.accept_codecCfg : (s.accept w).codecCfg = s.codecCfg := rfl
@[simp] theorem State.accept_result0 : (s.accept w).result0 = s.result0 := rfl
@[simp] theorem State.accept_result1 : (s.accept w).result1 = s.result1 := rfl
@[simp] theorem State.accept_pending : (s.accept w).pending = w := rfl
@[simp] theorem State.accept_tables : (s.accept w).tables = s.tables := rfl
@[simp] theorem State.accept_mem : (s.accept w).mem = s.mem := rfl
@[simp] theorem State.accept_bufDraw : (s.accept w).bufDraw = s.bufDraw := rfl
@[simp] theorem State.accept_draws : (s.accept w).draws = s.draws := rfl
@[simp] theorem State.accept_script : (s.accept w).script = s.script := rfl
@[simp] theorem State.accept_busData : (s.accept w).busData = s.busData := rfl

end

/-! ### rejectNotReady -/

section

variable (s : State)

@[simp] theorem State.rejectNotReady_params : s.rejectNotReady.params = s.params := rfl
@[simp] theorem State.rejectNotReady_ready : s.rejectNotReady.ready = s.ready := rfl
@[simp] theorem State.rejectNotReady_busy : s.rejectNotReady.busy = s.busy := rfl
@[simp] theorem State.rejectNotReady_done : s.rejectNotReady.done = true := rfl
@[simp] theorem State.rejectNotReady_wign : s.rejectNotReady.wign = s.wign := rfl
@[simp] theorem State.rejectNotReady_err : s.rejectNotReady.err = .eNotReady := rfl
@[simp] theorem State.rejectNotReady_arg0 : s.rejectNotReady.arg0 = s.arg0 := rfl
@[simp] theorem State.rejectNotReady_arg1 : s.rejectNotReady.arg1 = s.arg1 := rfl
@[simp] theorem State.rejectNotReady_arg2 : s.rejectNotReady.arg2 = s.arg2 := rfl
@[simp] theorem State.rejectNotReady_codecCfg : s.rejectNotReady.codecCfg = s.codecCfg := rfl
@[simp] theorem State.rejectNotReady_result0 : s.rejectNotReady.result0 = 0#32 := rfl
@[simp] theorem State.rejectNotReady_result1 : s.rejectNotReady.result1 = 0#32 := rfl
@[simp] theorem State.rejectNotReady_pending : s.rejectNotReady.pending = s.pending := rfl
@[simp] theorem State.rejectNotReady_tables : s.rejectNotReady.tables = s.tables := rfl
@[simp] theorem State.rejectNotReady_mem : s.rejectNotReady.mem = s.mem := rfl
@[simp] theorem State.rejectNotReady_bufDraw : s.rejectNotReady.bufDraw = s.bufDraw := rfl
@[simp] theorem State.rejectNotReady_draws : s.rejectNotReady.draws = s.draws := rfl
@[simp] theorem State.rejectNotReady_script : s.rejectNotReady.script = s.script := rfl
@[simp] theorem State.rejectNotReady_busData : s.rejectNotReady.busData = s.busData := rfl

end

/-! ### ignoreWrite -/

section

variable (s : State)

@[simp] theorem State.ignoreWrite_params : s.ignoreWrite.params = s.params := rfl
@[simp] theorem State.ignoreWrite_ready : s.ignoreWrite.ready = s.ready := rfl
@[simp] theorem State.ignoreWrite_busy : s.ignoreWrite.busy = s.busy := rfl
@[simp] theorem State.ignoreWrite_done : s.ignoreWrite.done = s.done := rfl
@[simp] theorem State.ignoreWrite_wign : s.ignoreWrite.wign = true := rfl
@[simp] theorem State.ignoreWrite_err : s.ignoreWrite.err = s.err := rfl
@[simp] theorem State.ignoreWrite_arg0 : s.ignoreWrite.arg0 = s.arg0 := rfl
@[simp] theorem State.ignoreWrite_arg1 : s.ignoreWrite.arg1 = s.arg1 := rfl
@[simp] theorem State.ignoreWrite_arg2 : s.ignoreWrite.arg2 = s.arg2 := rfl
@[simp] theorem State.ignoreWrite_codecCfg : s.ignoreWrite.codecCfg = s.codecCfg := rfl
@[simp] theorem State.ignoreWrite_result0 : s.ignoreWrite.result0 = s.result0 := rfl
@[simp] theorem State.ignoreWrite_result1 : s.ignoreWrite.result1 = s.result1 := rfl
@[simp] theorem State.ignoreWrite_pending : s.ignoreWrite.pending = s.pending := rfl
@[simp] theorem State.ignoreWrite_tables : s.ignoreWrite.tables = s.tables := rfl
@[simp] theorem State.ignoreWrite_mem : s.ignoreWrite.mem = s.mem := rfl
@[simp] theorem State.ignoreWrite_bufDraw : s.ignoreWrite.bufDraw = s.bufDraw := rfl
@[simp] theorem State.ignoreWrite_draws : s.ignoreWrite.draws = s.draws := rfl
@[simp] theorem State.ignoreWrite_script : s.ignoreWrite.script = s.script := rfl
@[simp] theorem State.ignoreWrite_busData : s.ignoreWrite.busData = s.busData := rfl

end

/-! ### initTables -/

section

variable (s : State)

@[simp] theorem State.initTables_params : s.initTables.params = s.params := rfl
@[simp] theorem State.initTables_ready : s.initTables.ready = true := rfl
@[simp] theorem State.initTables_busy : s.initTables.busy = s.busy := rfl
@[simp] theorem State.initTables_done : s.initTables.done = s.done := rfl
@[simp] theorem State.initTables_wign : s.initTables.wign = s.wign := rfl
@[simp] theorem State.initTables_err : s.initTables.err = s.err := rfl
@[simp] theorem State.initTables_arg0 : s.initTables.arg0 = s.arg0 := rfl
@[simp] theorem State.initTables_arg1 : s.initTables.arg1 = s.arg1 := rfl
@[simp] theorem State.initTables_arg2 : s.initTables.arg2 = s.arg2 := rfl
@[simp] theorem State.initTables_codecCfg : s.initTables.codecCfg = s.codecCfg := rfl
@[simp] theorem State.initTables_result0 : s.initTables.result0 = s.result0 := rfl
@[simp] theorem State.initTables_result1 : s.initTables.result1 = s.result1 := rfl
@[simp] theorem State.initTables_pending : s.initTables.pending = s.pending := rfl
@[simp] theorem State.initTables_tables : s.initTables.tables = Tables.build s.params := rfl
@[simp] theorem State.initTables_mem : s.initTables.mem = s.mem := rfl
@[simp] theorem State.initTables_bufDraw : s.initTables.bufDraw = s.bufDraw := rfl
@[simp] theorem State.initTables_draws : s.initTables.draws = s.draws := rfl
@[simp] theorem State.initTables_script : s.initTables.script = s.script := rfl
@[simp] theorem State.initTables_busData : s.initTables.busData = s.busData := rfl

end

/-! ### popTurn -/

section

variable (s : State)

@[simp] theorem State.popTurn_params : s.popTurn.params = s.params := rfl
@[simp] theorem State.popTurn_ready : s.popTurn.ready = s.ready := rfl
@[simp] theorem State.popTurn_busy : s.popTurn.busy = s.busy := rfl
@[simp] theorem State.popTurn_done : s.popTurn.done = s.done := rfl
@[simp] theorem State.popTurn_wign : s.popTurn.wign = s.wign := rfl
@[simp] theorem State.popTurn_err : s.popTurn.err = s.err := rfl
@[simp] theorem State.popTurn_arg0 : s.popTurn.arg0 = s.arg0 := rfl
@[simp] theorem State.popTurn_arg1 : s.popTurn.arg1 = s.arg1 := rfl
@[simp] theorem State.popTurn_arg2 : s.popTurn.arg2 = s.arg2 := rfl
@[simp] theorem State.popTurn_codecCfg : s.popTurn.codecCfg = s.codecCfg := rfl
@[simp] theorem State.popTurn_result0 : s.popTurn.result0 = s.result0 := rfl
@[simp] theorem State.popTurn_result1 : s.popTurn.result1 = s.result1 := rfl
@[simp] theorem State.popTurn_pending : s.popTurn.pending = s.pending := rfl
@[simp] theorem State.popTurn_tables : s.popTurn.tables = s.tables := rfl
@[simp] theorem State.popTurn_mem : s.popTurn.mem = s.mem := rfl
@[simp] theorem State.popTurn_bufDraw : s.popTurn.bufDraw = s.bufDraw := rfl
@[simp] theorem State.popTurn_draws : s.popTurn.draws = s.draws := rfl
@[simp] theorem State.popTurn_script : s.popTurn.script = s.script.tail := rfl
@[simp] theorem State.popTurn_busData : s.popTurn.busData = s.busData := rfl

end

/-! ### resetRegisters -/

section

variable (s : State)

@[simp] theorem State.resetRegisters_params : s.resetRegisters.params = s.params := rfl
@[simp] theorem State.resetRegisters_ready : s.resetRegisters.ready = false := rfl
@[simp] theorem State.resetRegisters_busy : s.resetRegisters.busy = false := rfl
@[simp] theorem State.resetRegisters_done : s.resetRegisters.done = false := rfl
@[simp] theorem State.resetRegisters_wign : s.resetRegisters.wign = false := rfl
@[simp] theorem State.resetRegisters_err : s.resetRegisters.err = .eNone := rfl
@[simp] theorem State.resetRegisters_arg0 : s.resetRegisters.arg0 = 0#32 := rfl
@[simp] theorem State.resetRegisters_arg1 : s.resetRegisters.arg1 = 0#32 := rfl
@[simp] theorem State.resetRegisters_arg2 : s.resetRegisters.arg2 = 0#32 := rfl
@[simp] theorem State.resetRegisters_codecCfg : s.resetRegisters.codecCfg = Config.codecCfgReset := rfl
@[simp] theorem State.resetRegisters_result0 : s.resetRegisters.result0 = 0#32 := rfl
@[simp] theorem State.resetRegisters_result1 : s.resetRegisters.result1 = 0#32 := rfl
@[simp] theorem State.resetRegisters_pending : s.resetRegisters.pending = 0#32 := rfl
@[simp] theorem State.resetRegisters_tables : s.resetRegisters.tables = Tables.invalid := rfl
@[simp] theorem State.resetRegisters_mem : s.resetRegisters.mem = s.mem := rfl
@[simp] theorem State.resetRegisters_bufDraw : s.resetRegisters.bufDraw = s.bufDraw := rfl
@[simp] theorem State.resetRegisters_draws : s.resetRegisters.draws = s.draws := rfl
@[simp] theorem State.resetRegisters_script : s.resetRegisters.script = s.script := rfl
@[simp] theorem State.resetRegisters_busData : s.resetRegisters.busData = s.busData := rfl

end

/-! ### abortPending -/

section

variable (s : State)

@[simp] theorem State.abortPending_params : s.abortPending.params = s.params := rfl
@[simp] theorem State.abortPending_ready : s.abortPending.ready = s.ready := rfl
@[simp] theorem State.abortPending_busy : s.abortPending.busy = s.busy := rfl
@[simp] theorem State.abortPending_done : s.abortPending.done = s.done := rfl
@[simp] theorem State.abortPending_wign : s.abortPending.wign = s.wign := rfl
@[simp] theorem State.abortPending_err : s.abortPending.err = s.err := rfl
@[simp] theorem State.abortPending_arg0 : s.abortPending.arg0 = s.arg0 := rfl
@[simp] theorem State.abortPending_arg1 : s.abortPending.arg1 = s.arg1 := rfl
@[simp] theorem State.abortPending_arg2 : s.abortPending.arg2 = s.arg2 := rfl
@[simp] theorem State.abortPending_codecCfg : s.abortPending.codecCfg = s.codecCfg := rfl
@[simp] theorem State.abortPending_result0 : s.abortPending.result0 = s.result0 := rfl
@[simp] theorem State.abortPending_result1 : s.abortPending.result1 = s.result1 := rfl
@[simp] theorem State.abortPending_pending : s.abortPending.pending = s.pending := rfl
@[simp] theorem State.abortPending_tables : s.abortPending.tables = s.tables := rfl
@[simp] theorem State.abortPending_mem : s.abortPending.mem = Memory.storeDraws s.draws s.mem s.regionOffsets := rfl
@[simp] theorem State.abortPending_bufDraw : s.abortPending.bufDraw = s.bufDraw := rfl
@[simp] theorem State.abortPending_draws : s.abortPending.draws = s.draws + s.params.bufSize := rfl
@[simp] theorem State.abortPending_script : s.abortPending.script = s.script := rfl
@[simp] theorem State.abortPending_busData : s.abortPending.busData = s.busData := rfl

end

/-! ### hardReset -/

section

variable (s : State)

@[simp] theorem State.hardReset_params : s.hardReset.params = s.params := rfl
@[simp] theorem State.hardReset_ready : s.hardReset.ready = false := rfl
@[simp] theorem State.hardReset_busy : s.hardReset.busy = false := rfl
@[simp] theorem State.hardReset_done : s.hardReset.done = false := rfl
@[simp] theorem State.hardReset_wign : s.hardReset.wign = false := rfl
@[simp] theorem State.hardReset_err : s.hardReset.err = .eNone := rfl
@[simp] theorem State.hardReset_arg0 : s.hardReset.arg0 = 0#32 := rfl
@[simp] theorem State.hardReset_arg1 : s.hardReset.arg1 = 0#32 := rfl
@[simp] theorem State.hardReset_arg2 : s.hardReset.arg2 = 0#32 := rfl
@[simp] theorem State.hardReset_codecCfg : s.hardReset.codecCfg = Config.codecCfgReset := rfl
@[simp] theorem State.hardReset_result0 : s.hardReset.result0 = 0#32 := rfl
@[simp] theorem State.hardReset_result1 : s.hardReset.result1 = 0#32 := rfl
@[simp] theorem State.hardReset_pending : s.hardReset.pending = 0#32 := rfl
@[simp] theorem State.hardReset_tables : s.hardReset.tables = Tables.invalid := rfl
@[simp] theorem State.hardReset_mem : s.hardReset.mem = [] := rfl
@[simp] theorem State.hardReset_bufDraw : s.hardReset.bufDraw = s.draws := rfl
@[simp] theorem State.hardReset_draws : s.hardReset.draws = s.draws + s.params.bufSize := rfl
@[simp] theorem State.hardReset_script : s.hardReset.script = s.script := rfl
@[simp] theorem State.hardReset_busData : s.hardReset.busData = s.busData := rfl

end

/-! ### busRead -/

section

variable (s : State) (w : Width) (off : Nat)

@[simp] theorem State.busRead_params : (s.busRead w off).params = s.params := rfl
@[simp] theorem State.busRead_ready : (s.busRead w off).ready = s.ready := rfl
@[simp] theorem State.busRead_busy : (s.busRead w off).busy = s.busy := rfl
@[simp] theorem State.busRead_done : (s.busRead w off).done = s.done := rfl
@[simp] theorem State.busRead_wign : (s.busRead w off).wign = s.wign := rfl
@[simp] theorem State.busRead_err : (s.busRead w off).err = s.err := rfl
@[simp] theorem State.busRead_arg0 : (s.busRead w off).arg0 = s.arg0 := rfl
@[simp] theorem State.busRead_arg1 : (s.busRead w off).arg1 = s.arg1 := rfl
@[simp] theorem State.busRead_arg2 : (s.busRead w off).arg2 = s.arg2 := rfl
@[simp] theorem State.busRead_codecCfg : (s.busRead w off).codecCfg = s.codecCfg := rfl
@[simp] theorem State.busRead_result0 : (s.busRead w off).result0 = s.result0 := rfl
@[simp] theorem State.busRead_result1 : (s.busRead w off).result1 = s.result1 := rfl
@[simp] theorem State.busRead_pending : (s.busRead w off).pending = s.pending := rfl
@[simp] theorem State.busRead_tables : (s.busRead w off).tables = s.tables := rfl
@[simp] theorem State.busRead_mem : (s.busRead w off).mem = s.mem := rfl
@[simp] theorem State.busRead_bufDraw : (s.busRead w off).bufDraw = s.bufDraw := rfl
@[simp] theorem State.busRead_script : (s.busRead w off).script = s.script := rfl
@[simp] theorem State.busRead_busData : (s.busRead w off).busData = some (s.busReadValue w off) := rfl

end

end Sys2Proof.Machine
end

