-- ==== Sys2Proof/Laws/Memory.lean ====
section
/-! SUPPORT. BUF: what a store leaves readable, and that every operation on BUF keeps the canonical form. -/

namespace Sys2Proof.Machine

/-! ### Read after write -/

@[simp] theorem Memory.lookup_nil (a : Nat) : Memory.lookup [] a = none := rfl

theorem Memory.lookup_cons (k : Nat) (v : Byte) (m : Memory) (a : Nat) :
    Memory.lookup ((k, v) :: m) a = if k = a then some v else Memory.lookup m a := rfl

theorem Memory.lookup_store (m : Memory) (a : Nat) (b : Byte) (x : Nat) :
    Memory.lookup (Memory.store m a b) x = if x = a then some b else Memory.lookup m x := by
  induction m with
  | nil => simp only [Memory.store, Memory.lookup_cons, Memory.lookup_nil, eq_comm]
  | cons c m ih =>
    obtain ⟨k, v⟩ := c
    simp only [Memory.store]
    split_ifs with hk hlt hx hx <;> grind [Memory.lookup_cons]

theorem Memory.lookup_storeAll (bs : List Byte) : ∀ (m : Memory) (a x : Nat),
    Memory.lookup (Memory.storeAll m a bs) x
      = if a ≤ x ∧ x < a + bs.length then bs[x - a]? else Memory.lookup m x := by
  induction bs with
  | nil => intro m a x; simp [Memory.storeAll]
  | cons b bs ih =>
    intro m a x
    rw [Memory.storeAll, ih, Memory.lookup_store]
    rcases Nat.lt_trichotomy x a with h | h | h
    · rw [if_neg (by omega), if_neg (by omega), if_neg (by simp; omega)]
    · subst h; simp
    · by_cases hx : x < a + (b :: bs).length
      · have hx' : x < a + (bs.length + 1) := by simpa using hx
        rw [if_pos (by omega), if_pos (by omega)]
        obtain ⟨j, rfl⟩ : ∃ j, x = a + 1 + j := ⟨x - (a + 1), by omega⟩
        rw [show a + 1 + j - (a + 1) = j by omega, show a + 1 + j - a = j + 1 by omega,
          List.getElem?_cons_succ]
      · have hx' : ¬ x < a + (bs.length + 1) := by simpa using hx
        rw [if_neg (by omega), if_neg (by omega), if_neg (by omega)]

/-- A byte of BUF depends on the stored bytes and on the draws of the last hard reset only. -/
theorem State.bufByte_congr {s t : State} (hm : t.mem = s.mem) (hd : t.bufDraw = s.bufDraw) (a : Nat) :
    t.bufByte a = s.bufByte a := by rw [State.bufByte, State.bufByte, hm, hd]

theorem State.bufByte_memWrite (s : State) (a : Nat) (bs : List Byte) (x : Nat) :
    (s.memWrite a bs).bufByte x = if a ≤ x ∧ x < a + bs.length then bs.getD (x - a) 0#8 else s.bufByte x := by
  simp only [State.bufByte, State.memWrite_mem, State.memWrite_bufDraw, Memory.lookup_storeAll]
  split_ifs with h
  · have hlt : x - a < bs.length := by omega
    simp [List.getElem?_eq_getElem hlt]
  · rfl

theorem State.bufByte_memWrite_outside (s : State) {a : Nat} {bs : List Byte} {x : Nat}
    (h : x < a ∨ a + bs.length ≤ x) : (s.memWrite a bs).bufByte x = s.bufByte x := by
  rw [State.bufByte_memWrite, if_neg (by omega)]

/-! ### Spans -/

@[simp] theorem State.memRead_length (s : State) (a n : Nat) : (s.memRead a n).length = n := by
  simp [State.memRead]

theorem State.memRead_getD (s : State) {a n i : Nat} (h : i < n) : (s.memRead a n).getD i 0#8 = s.bufByte (a + i) := by
  simp [State.memRead, h]

theorem State.memRead_congr {s t : State} {a n : Nat} (h : ∀ i < n, t.bufByte (a + i) = s.bufByte (a + i)) :
    t.memRead a n = s.memRead a n :=
  List.map_congr_left fun i hi => h i (List.mem_range.1 hi)

/-- Reading back what was written gives it. -/
theorem State.memRead_memWrite (s : State) (a : Nat) (bs : List Byte) :
    (s.memWrite a bs).memRead a bs.length = bs := by
  refine List.ext_getElem (by simp) fun i h _ => ?_
  have hi : i < bs.length := by simpa using h
  simp only [State.memRead, List.getElem_map, List.getElem_range, State.bufByte_memWrite]
  rw [if_pos (by omega), Nat.add_sub_cancel_left, List.getD_eq_getElem _ _ hi]

/-- A write leaves a span that it does not touch as it was. -/
theorem State.memRead_memWrite_disjoint (s : State) {a b n : Nat} {bs : List Byte}
    (h : b + n ≤ a ∨ a + bs.length ≤ b) : (s.memWrite a bs).memRead b n = s.memRead b n :=
  State.memRead_congr fun i hi => State.bufByte_memWrite_outside s (by omega)

theorem State.memRead_append (s : State) (a m n : Nat) :
    s.memRead a (m + n) = s.memRead a m ++ s.memRead (a + m) n := by
  simp [State.memRead, List.range_add, Function.comp_def, Nat.add_assoc]

/-! ### The canonical form -/

theorem Memory.mem_store {m : Memory} {a : Nat} {b : Byte} {c : Host.Cell} (h : c ∈ Memory.store m a b) :
    c = (a, b) ∨ c ∈ m := by
  induction m with
  | nil => simpa [Memory.store] using h
  | cons d m ih =>
    obtain ⟨k, v⟩ := d
    simp only [Memory.store] at h
    split_ifs at h <;> grind

theorem Memory.store_wf {size : Nat} {m : Memory} {a : Nat} {b : Byte} (hm : Memory.wf size m) (ha : a < size) :
    Memory.wf size (Memory.store m a b) := by
  refine ⟨?_, fun c hc => ?_⟩
  · have hr := hm.1
    clear hm
    induction m with
    | nil => simp [Memory.store]
    | cons d m ih =>
      obtain ⟨k, v⟩ := d
      simp only [List.map_cons, List.pairwise_cons] at hr
      simp only [Memory.store]
      split_ifs with hk hlt
      · subst hk; simpa [List.pairwise_cons] using hr
      · simp only [List.map_cons, List.pairwise_cons]
        refine ⟨fun x hx => ?_, hr⟩
        rcases List.mem_cons.1 hx with rfl | hx
        · exact hlt
        · exact lt_trans hlt (hr.1 x hx)
      · simp only [List.map_cons, List.pairwise_cons]
        refine ⟨fun x hx => ?_, ih hr.2⟩
        obtain ⟨c, hc, rfl⟩ := List.mem_map.1 hx
        rcases Memory.mem_store hc with rfl | hc
        · show k < a; omega
        · exact hr.1 _ (List.mem_map_of_mem hc)
  · rcases Memory.mem_store hc with rfl | hc
    · exact ha
    · exact hm.2 c hc

theorem Memory.storeAll_wf {size : Nat} (bs : List Byte) : ∀ {m : Memory} {a : Nat}, Memory.wf size m →
    a + bs.length ≤ size → Memory.wf size (Memory.storeAll m a bs) := by
  induction bs with
  | nil => intro m a hm _; exact hm
  | cons b bs ih =>
    intro m a hm h
    have h' : a + (bs.length + 1) ≤ size := by simpa using h
    exact ih (Memory.store_wf hm (by omega)) (by omega)

theorem Memory.storeDraws_wf {size base : Nat} (as : List Nat) : ∀ {m : Memory}, Memory.wf size m →
    (∀ a ∈ as, a < size) → Memory.wf size (Memory.storeDraws base m as) := by
  induction as with
  | nil => intro m hm _; exact hm
  | cons a as ih =>
    intro m hm h
    exact ih (Memory.store_wf hm (h a (by simp))) fun x hx => h x (by simp [hx])

theorem Memory.nil_wf (size : Nat) : Memory.wf size [] := ⟨List.Pairwise.nil, by simp⟩

theorem State.reset_mem_wf : Memory.wf State.reset.params.bufSize State.reset.mem := Memory.nil_wf _

/-- A byte drawn for an aborted command's write region, or the byte that was there (R273). -/
theorem Memory.lookup_storeDraws {base : Nat} (as : List Nat) : ∀ (m : Memory) (x : Nat),
    Memory.lookup (Memory.storeDraws base m as) x
      = if x ∈ as then some (Config.freeByte (base + x)) else Memory.lookup m x := by
  induction as with
  | nil => intro m x; simp [Memory.storeDraws]
  | cons a as ih =>
    intro m x
    rw [Memory.storeDraws, ih, Memory.lookup_store]
    by_cases hx : x ∈ as
    · simp [hx]
    · by_cases hxa : x = a
      · subst hxa; simp [hx]
      · simp [hx, hxa]

/-- Two memories in canonical form that read the same whatever the draws are the same data: the form is
canonical. -/
theorem Memory.lookup_ext {size : Nat} : ∀ {m n : Memory}, Memory.wf size m → Memory.wf size n →
    (∀ a, Memory.lookup m a = Memory.lookup n a) → m = n := by
  have none_of_lt : ∀ {m : Memory} {a : Nat}, (∀ k ∈ m.map Prod.fst, a < k) → Memory.lookup m a = none := by
    intro m a h
    induction m with
    | nil => rfl
    | cons c m ih =>
      obtain ⟨k, v⟩ := c
      rw [Memory.lookup_cons, if_neg (by have := h k (by simp); omega)]
      exact ih fun k hk => h k (by simp [hk])
  intro m
  induction m with
  | nil =>
    intro n _ _ h
    cases n with
    | nil => rfl
    | cons c n =>
      obtain ⟨k, v⟩ := c
      have := h k
      rw [Memory.lookup_cons, if_pos rfl] at this
      exact absurd this (by simp)
  | cons c m ih =>
    intro n hm hn h
    obtain ⟨k, v⟩ := c
    cases n with
    | nil =>
      have := h k
      rw [Memory.lookup_cons, if_pos rfl] at this
      exact absurd this (by simp)
    | cons d n =>
      obtain ⟨l, w⟩ := d
      have hm1 := hm.1; have hn1 := hn.1
      simp only [List.map_cons, List.pairwise_cons] at hm1 hn1
      have hkl : k = l := by
        rcases Nat.lt_trichotomy k l with hlt | heq | hlt
        · have := h k
          rw [Memory.lookup_cons, if_pos rfl, Memory.lookup_cons, if_neg (by omega),
            none_of_lt fun x hx => lt_trans hlt (hn1.1 x hx)] at this
          exact absurd this (by simp)
        · exact heq
        · have := h l
          rw [Memory.lookup_cons, if_neg (by omega), Memory.lookup_cons, if_pos rfl,
            none_of_lt fun x hx => lt_trans hlt (hm1.1 x hx)] at this
          exact absurd this (by simp)
      subst hkl
      have hvw : v = w := by
        have := h k
        rw [Memory.lookup_cons, if_pos rfl, Memory.lookup_cons, if_pos rfl] at this
        exact Option.some.inj this
      subst hvw
      have hmw : Memory.wf size m := ⟨hm1.2, fun c hc => hm.2 c (by simp [hc])⟩
      have hnw : Memory.wf size n := ⟨hn1.2, fun c hc => hn.2 c (by simp [hc])⟩
      congr 1
      refine ih hmw hnw fun a => ?_
      by_cases hak : k = a
      · subst hak
        rw [none_of_lt hm1.1, none_of_lt hn1.1]
      · have := h a
        rwa [Memory.lookup_cons, if_neg hak, Memory.lookup_cons, if_neg hak] at this

end Sys2Proof.Machine
end

