-- ==== Sys2Proof/Laws/Ops.lean ====
section
/-! SUPPORT. What the shared operations do, one lemma each: how a command ends, what the codec's functions return, and
what a command's write leaves alone. -/

namespace Sys2Proof.Machine

/-! ### How a command ends -/

@[simp] theorem State.complete_eq (s : State) (r0 r1 : Word) : s.complete r0 r1 = s.endCommand .eNone r0 r1 := rfl

@[simp] theorem State.raise_eq (s : State) (e : ErrCode) : s.raise e = s.endCommand e 0#32 0#32 := rfl

@[simp] theorem State.raiseWith_eq (s : State) (e : ErrCode) (r0 r1 : Word) :
    s.raiseWith e r0 r1 = s.endCommand e r0 r1 := rfl

@[simp] theorem State.bufByte_endCommand (s : State) (e : ErrCode) (r0 r1 : Word) (a : Nat) :
    (s.endCommand e r0 r1).bufByte a = s.bufByte a := rfl

@[simp] theorem State.memRead_endCommand (s : State) (e : ErrCode) (r0 r1 : Word) (a n : Nat) :
    (s.endCommand e r0 r1).memRead a n = s.memRead a n := rfl

@[simp] theorem State.bufByte_popTurn (s : State) (a : Nat) : s.popTurn.bufByte a = s.bufByte a := rfl

@[simp] theorem State.inWriteRegion_popTurn (s : State) (a : Nat) : s.popTurn.inWriteRegion a = s.inWriteRegion a := rfl

theorem State.spanFits_iff (s : State) (off len : Nat) : s.spanFits off len = true ↔ off + len ≤ s.params.bufSize := by
  simp [State.spanFits]

theorem Codec.valid_iff (c : Codec) : c.valid = true ↔ 1 ≤ c.necc ∧ c.necc + c.pad + 1 ≤ c.n := by
  simp [Codec.valid]

theorem Codec.msgLen_add_necc {c : Codec} (h : c.valid = true) : c.msgLen + c.necc = c.wordLen := by
  have := c.valid_iff.1 h
  simp only [Codec.msgLen, Codec.wordLen]
  omega

/-! ### Lengths -/

@[simp] theorem le32_length (v : Word) : (le32 v).length = 4 := rfl

@[simp] theorem le16_length (v : Half) : (le16 v).length = 2 := rfl

@[simp] theorem addPrefix_length (r d : List Byte) : (addPrefix r d).length = r.length := by
  induction r generalizing d with
  | nil => cases d <;> simp [addPrefix]
  | cons x r ih => cases d <;> simp [addPrefix, ih]

/-- Each round of the division takes one symbol off. -/
theorem rsReduce_length (T : Tables) (tail : List Byte) :
    ∀ (k : Nat) (r : List Byte), (rsReduce T tail k r).length = r.length - k := by
  intro k
  induction k with
  | zero => intro r; rfl
  | succ k ih =>
    intro r
    cases r with
    | nil => simp [rsReduce]
    | cons c r =>
      rw [rsReduce, ih]
      split_ifs <;> simp

@[simp] theorem rsParity_length (p : Params) (T : Tables) (necc : Nat) (m : List Byte) :
    (rsParity p T necc m).length = necc := by simp [rsParity, rsReduce_length]

@[simp] theorem applyCorrections_length (p : Params) (T : Tables) (omega dlam r : List Byte) (locs : List Nat) :
    (applyCorrections p T omega dlam r locs).length = r.length := by
  unfold applyCorrections
  induction locs generalizing r with
  | nil => rfl
  | cons d locs ih => rw [List.foldl_cons, ih]; simp [addAtDegree]

/-! ### The decoder, by its result -/

/-- Everything a successful repair says: the located degrees are within the word, as many as Λ's degree, at most t, and
the corrected word has zero syndromes. -/
theorem rsRepair_some {p : Params} {T : Tables} {necc : Nat} {r syn lam r' : List Byte} {w : Nat}
    (h : rsRepair p T necc r syn lam = some (r', w)) :
    w = polyDegree lam ∧ w ≤ necc / 2 ∧ (chienSearch p T lam).length = w
      ∧ (∀ d ∈ chienSearch p T lam, d < r.length)
      ∧ r' = applyCorrections p T (errorEvaluator T necc syn lam) (formalDerivative lam) r (chienSearch p T lam)
      ∧ allZero (rsSyndromes p T necc r') = true := by
  simp only [rsRepair] at h
  split_ifs at h with h1 h2 h3 h4
  · simp only [Option.some.injEq, Prod.mk.injEq] at h
    obtain ⟨rfl, rfl⟩ := h
    refine ⟨rfl, by omega, by simpa using h2, fun d hd => ?_, rfl, h4⟩
    simp only [List.any_eq_true, decide_eq_true_eq, not_exists, not_and, not_le] at h3
    exact h3 d hd

/-- A result of the decoder: the word itself with zero syndromes, or a repair of one with a nonzero syndrome. -/
theorem rsCorrect_some {p : Params} {T : Tables} {necc : Nat} {r r' : List Byte} {w : Nat}
    (h : rsCorrect p T necc r = some (r', w)) :
    (allZero (rsSyndromes p T necc r) = true ∧ r' = r ∧ w = 0)
      ∨ (allZero (rsSyndromes p T necc r) = false
        ∧ rsRepair p T necc r (rsSyndromes p T necc r) (bmLocator T necc (rsSyndromes p T necc r)) = some (r', w)) := by
  simp only [rsCorrect] at h
  split_ifs at h with hz
  · simp only [Option.some.injEq, Prod.mk.injEq] at h
    exact .inl ⟨hz, h.1.symm, h.2.symm⟩
  · exact .inr ⟨by simpa using hz, h⟩

theorem rsCorrect_length {p : Params} {T : Tables} {necc : Nat} {r r' : List Byte} {w : Nat}
    (h : rsCorrect p T necc r = some (r', w)) : r'.length = r.length := by
  rcases rsCorrect_some h with ⟨_, rfl, _⟩ | ⟨_, h⟩
  · rfl
  · obtain ⟨_, _, _, _, rfl, _⟩ := rsRepair_some h
    simp

theorem rsCorrect_count_le {p : Params} {T : Tables} {necc : Nat} {r r' : List Byte} {w : Nat}
    (h : rsCorrect p T necc r = some (r', w)) : w ≤ necc / 2 := by
  rcases rsCorrect_some h with ⟨_, _, rfl⟩ | ⟨_, h⟩
  · exact Nat.zero_le _
  · exact (rsRepair_some h).2.1

theorem allZero_syndromes_iff (p : Params) (T : Tables) (necc : Nat) (r : List Byte) :
    allZero (rsSyndromes p T necc r) = true ↔ ∀ i < necc, polyEval T r (rsRoot p T i) = 0#8 := by
  simp [allZero, rsSyndromes]

/-- A word with zero syndromes is returned unchanged with count 0 (R174, R175). -/
theorem rsCorrect_of_zero {p : Params} {T : Tables} {necc : Nat} {r : List Byte}
    (h : allZero (rsSyndromes p T necc r) = true) : rsCorrect p T necc r = some (r, 0) := by
  simp [rsCorrect, h]

/-! ### Building a block -/

/-- The 34 bytes BUILD_DATA and BUILD_SUPER write behind the payload: checksum and parity (R220, R221). -/
def State.blockTail (s : State) (base : Nat) (addr : Word) : List Byte :=
  let head := le32 addr ++ s.memRead (base + 4) Config.ndata
  let chk := blockChecksum s.params s.tables head
  le16 chk ++ blockParity s.params s.tables (head ++ le16 chk)

theorem State.blockTail_length (s : State) (base : Nat) (addr : Word) : (s.blockTail base addr).length = 34 := by
  simp [State.blockTail, blockParity, blockCodec, Config.neccBlk]

/-- What building a block leaves in BUF: the address and the 34 bytes behind the payload. -/
theorem State.buildBlock_mem (s : State) (base : Nat) (addr : Word) :
    (s.buildBlock base addr).mem
      = Memory.storeAll (Memory.storeAll s.mem base (le32 addr)) (base + 94) (s.blockTail base addr) := rfl

theorem State.buildBlock_wf {s : State} {base : Nat} (addr : Word) (hm : Memory.wf s.params.bufSize s.mem)
    (hb : base + 128 ≤ s.params.bufSize) : Memory.wf s.params.bufSize (s.buildBlock base addr).mem := by
  rw [State.buildBlock_mem]
  refine Memory.storeAll_wf _ (Memory.storeAll_wf _ hm ?_) ?_
  · rw [le32_length]; omega
  · rw [State.blockTail_length]; omega

/-! ### Everything a command can do -/

/-- The end of a command leaves everything else alone. -/
theorem SameBesideEnd.endCommand (s : State) (e : ErrCode) (r0 r1 : Word) : SameBesideEnd s (s.endCommand e r0 r1) := by
  constructor <;> rfl

theorem EndsWith.endCommand (s : State) (e : ErrCode) (r0 r1 : Word) : EndsWith s (s.endCommand e r0 r1) e r0 r1 :=
  ⟨rfl, rfl, rfl, rfl, rfl, SameBesideEnd.endCommand s e r0 r1⟩

/-- So does the end of a command that has written BUF. -/
theorem EndsWith.memWrite_endCommand (s : State) (a : Nat) (bs : List Byte) (e : ErrCode) (r0 r1 : Word) :
    EndsWith s ((s.memWrite a bs).endCommand e r0 r1) e r0 r1 :=
  ⟨rfl, rfl, rfl, rfl, rfl, by constructor <;> rfl⟩

theorem BufSame.endCommand (s : State) (e : ErrCode) (r0 r1 : Word) : BufSame s (s.endCommand e r0 r1) :=
  fun _ => rfl

/-- The end of a command with the given BUF: the one form every command's next state has. -/
def State.endWith (s : State) (m : Memory) (e : ErrCode) (r0 r1 : Word) : State :=
  { s with mem := m, err := e, busy := false, done := true, result0 := r0, result1 := r1 }

/-- `t` is `s` after a command has ended, whatever it wrote. -/
def CommandEnd (s t : State) : Prop := ∃ m e r0 r1, t = s.endWith m e r0 r1

theorem CommandEnd.endCommand (s : State) (e : ErrCode) (r0 r1 : Word) : CommandEnd s (s.endCommand e r0 r1) :=
  ⟨s.mem, e, r0, r1, rfl⟩

theorem CommandEnd.raise (s : State) (e : ErrCode) : CommandEnd s (s.raise e) := CommandEnd.endCommand s e _ _

theorem CommandEnd.complete (s : State) (r0 r1 : Word) : CommandEnd s (s.complete r0 r1) :=
  CommandEnd.endCommand s _ r0 r1

theorem CommandEnd.write (s : State) (a : Nat) (bs : List Byte) (r0 r1 : Word) :
    CommandEnd s ((s.memWrite a bs).complete r0 r1) := ⟨Memory.storeAll s.mem a bs, .eNone, r0, r1, rfl⟩

theorem CommandEnd.build (s : State) (base : Nat) (addr : Word) : CommandEnd s (s.buildBlock base addr) :=
  ⟨_, .eNone, _, _, rfl⟩

theorem CommandEnd.decode (s : State) (res : Option (List Byte × Nat)) : CommandEnd s (s.endDecode res) := by
  unfold State.endDecode
  split
  · exact CommandEnd.raise s _
  · exact CommandEnd.write s _ _ _ _

theorem CommandEnd.verify (s : State) (res : Option (List Byte × Nat)) : CommandEnd s (s.endVerify res) := by
  unfold State.endVerify
  split
  · exact CommandEnd.endCommand s _ _ _
  · split
    · exact CommandEnd.write s _ _ _ _
    · exact CommandEnd.endCommand s _ _ _

theorem CommandEnd.ite {c : Prop} [Decidable c] {s t u : State} (ht : CommandEnd s t) (hu : CommandEnd s u) :
    CommandEnd s (if c then t else u) := by split_ifs <;> assumption

/-- Every command answers a next state, which is the state with BUF, ERR, RESULT0 and RESULT1 written, BUSY cleared and
DONE set (R249, R250). -/
theorem exec_commandEnd (i : Instr) (s : State) : ∃ t, exec i s = .next t ∧ CommandEnd s t :=
  match i with
  | .crc16 => ⟨_, rfl, .ite (.complete s _ _) (.raise s _)⟩
  | .gfMul => ⟨_, rfl, .complete s _ _⟩
  | .gfDiv => ⟨_, rfl, .ite (.raise s _) (.complete s _ _)⟩
  | .polyEval => ⟨_, rfl, .ite (.complete s _ _) (.raise s _)⟩
  | .rsEncode => ⟨_, rfl, .ite (.ite (.write s _ _ _ _) (.raise s _)) (.raise s _)⟩
  | .rsDecode => ⟨_, rfl, .ite (.ite (.decode s _) (.raise s _)) (.raise s _)⟩
  | .buildData => ⟨_, rfl, .ite (.ite (.raise s _) (.build s _ _)) (.raise s _)⟩
  | .buildSuper => ⟨_, rfl, .ite (.build s _ _) (.raise s _)⟩
  | .verify => ⟨_, rfl, .ite (.verify s _) (.raise s _)⟩
  | .blockKind => ⟨_, rfl, .ite (.complete s _ _) (.raise s _)⟩

end Sys2Proof.Machine
end

