-- ==== Sys2Proof/Laws/PerInstr.lean ====
section
/-! SUPPORT. What holds of every command as syntax, one lemma for each. -/

namespace Sys2Proof.Laws.Encoding

/-- A command is well formed, and its word has RSV 0 and an opcode from 1 to 10 (R101, R102). -/
def Statement (i : Instr) : Prop :=
  i.wellFormed = true ∧ rsvField (encode i) = 0#24 ∧ 1 ≤ (opcField (encode i)).toNat
    ∧ (opcField (encode i)).toNat ≤ 10

theorem crc16 : Statement .crc16 := ⟨rfl, by decide, by decide, by decide⟩

theorem gfMul : Statement .gfMul := ⟨rfl, by decide, by decide, by decide⟩

theorem gfDiv : Statement .gfDiv := ⟨rfl, by decide, by decide, by decide⟩

theorem polyEval : Statement .polyEval := ⟨rfl, by decide, by decide, by decide⟩

theorem rsEncode : Statement .rsEncode := ⟨rfl, by decide, by decide, by decide⟩

theorem rsDecode : Statement .rsDecode := ⟨rfl, by decide, by decide, by decide⟩

theorem buildData : Statement .buildData := ⟨rfl, by decide, by decide, by decide⟩

theorem buildSuper : Statement .buildSuper := ⟨rfl, by decide, by decide, by decide⟩

theorem verify : Statement .verify := ⟨rfl, by decide, by decide, by decide⟩

theorem blockKind : Statement .blockKind := ⟨rfl, by decide, by decide, by decide⟩

end Sys2Proof.Laws.Encoding
end

