-- ==== Sys2Proof/Laws/Step.lean ====
section
/-! SUPPORT. What one step does, turn by turn. -/

namespace Sys2Proof.Machine

/-! ### The turn that is taken -/

theorem step_of_head {s : State} {t : Turn} (h : s.script.head? = some t) : step s = takeTurn t s.popTurn := by
  unfold step nextTurn
  cases hs : s.script with
  | nil => simp [hs] at h
  | cons a l => simp_all

theorem step_of_engineNext {s : State} (h : s.engineNext) : step s = engineTurn s.popTurn := by
  unfold step nextTurn
  rw [show s.script.headD .engine = .engine from h]
  rfl

theorem step_of_empty {s : State} (h : s.script = []) : step s = engineTurn s.popTurn :=
  step_of_engineNext (by simp [State.engineNext, h])

/-- A state whose script holds a turn either has the engine next or a turn of the host or of the platform. -/
theorem step_turn_cases (s : State) :
    (s.engineNext ∧ step s = engineTurn s.popTurn)
      ∨ (∃ w off, s.script.head? = some (.read w off) ∧ step s = hostRead s.popTurn w off)
      ∨ (∃ w off v, s.script.head? = some (.write w off v) ∧ step s = hostWrite s.popTurn w off v)
      ∨ (s.script.head? = some .hardReset ∧ step s = .next s.popTurn.hardReset) := by
  cases hs : s.script with
  | nil => exact .inl ⟨by simp [State.engineNext, hs], step_of_empty hs⟩
  | cons a l =>
    cases a with
    | engine => exact .inl ⟨by simp [State.engineNext, hs], step_of_engineNext (by simp [State.engineNext, hs])⟩
    | read w off => exact .inr (.inl ⟨w, off, rfl, step_of_head (by rw [hs]; rfl)⟩)
    | write w off v => exact .inr (.inr (.inl ⟨w, off, v, rfl, step_of_head (by rw [hs]; rfl)⟩))
    | hardReset => exact .inr (.inr (.inr ⟨rfl, step_of_head (by rw [hs]; rfl)⟩))

/-! ### The engine's turn -/

theorem engineTurn_notReady {s : State} (h : s.ready = false) : engineTurn s = .next s.initTables := by
  simp [engineTurn, h]

theorem engineTurn_pending {s : State} (hr : s.ready = true) (hb : s.busy = true) : engineTurn s = runPending s := by
  simp [engineTurn, hr, hb]

theorem engineTurn_idle {s : State} (hr : s.ready = true) (hb : s.busy = false) : engineTurn s = .next s := by
  simp [engineTurn, hr, hb]

/-- The engine always answers a next state: initialisation, the end of the pending command, or nothing. -/
theorem engineTurn_cases (s : State) :
    (s.ready = false ∧ engineTurn s = .next s.initTables)
      ∨ (s.ready = true ∧ s.busy = true ∧ ∃ t, engineTurn s = .next t ∧ CommandEnd s t)
      ∨ (s.ready = true ∧ s.busy = false ∧ engineTurn s = .next s) := by
  cases hr : s.ready
  · exact .inl ⟨rfl, engineTurn_notReady hr⟩
  · cases hb : s.busy
    · exact .inr (.inr ⟨rfl, rfl, engineTurn_idle hr hb⟩)
    · refine .inr (.inl ⟨rfl, rfl, ?_⟩)
      rw [engineTurn_pending hr hb]
      unfold runPending
      split
      · exact exec_commandEnd _ s
      · exact ⟨_, rfl, CommandEnd.raise s _⟩

/-! ### The host's turn -/

theorem guardAccess_of_wellFormed {size : Nat} {w : Width} {off : Nat} (h : accessWellFormed size w off = true)
    (t : State) : guardAccess size w off t = .next t := by
  simp only [accessWellFormed, Bool.and_eq_true] at h
  simp [guardAccess, h.1.1.1, h.1.1.2, h.1.2, h.2]

theorem guardAccess_next {size : Nat} {w : Width} {off : Nat} {t u : State} (h : guardAccess size w off t = .next u) :
    accessWellFormed size w off = true ∧ t = u := by
  unfold guardAccess at h
  split_ifs at h with h1 h2 h3 h4
  · simp only [Bool.not_eq_true', Bool.not_eq_false] at h1 h2 h3 h4
    exact ⟨by simp [accessWellFormed, h1, h2, h3, h4], by injection h⟩

theorem accessReachesBuf_iff (size : Nat) (w : Width) (off : Nat) :
    accessReachesBuf size w off = true ↔ 0x800 ≤ off ∧ off + w.bytes ≤ 0x800 + size := by
  simp [accessReachesBuf, Config.bufOffset]

theorem accessReachesBuf_low {size : Nat} {w : Width} {off : Nat} (h : off < 0x800) :
    accessReachesBuf size w off = false := by
  simp [accessReachesBuf, Config.bufOffset]
  omega

/-- Every 32-bit access at a 4-byte-aligned offset below the BUF window has a behaviour (R73). -/
theorem accessWellFormed_register {size off : Nat} (h4 : off % 4 = 0) (hlt : off < 0x800) :
    accessWellFormed size .w32 off = true := by
  simp only [accessWellFormed, accessInWindow, accessAligned, accessWidthAllowed, accessWithinBufEnd,
    Bool.and_eq_true, Bool.or_eq_true, decide_eq_true_eq]
  simp only [Width.bytes, Config.windowSize, Config.bufOffset]
  exact ⟨⟨⟨by omega, h4⟩, .inr trivial⟩, .inl (by omega)⟩

/-- So has every aligned access that lies in the BUF window (R72). -/
theorem accessWellFormed_buf {size : Nat} {w : Width} {a : Nat} (hal : a % w.bytes = 0) (hin : a + w.bytes ≤ size)
    (hwin : 0x800 + a < 0x1000) : accessWellFormed size w (0x800 + a) = true := by
  have h2 : (0x800 + a) % w.bytes = 0 := by cases w <;> simp [Width.bytes] at * <;> omega
  simp [accessWellFormed, accessInWindow, accessAligned, accessWidthAllowed, accessWithinBufEnd, Config.windowSize,
    Config.bufOffset, h2]
  omega

theorem accessReachesBuf_buf {size : Nat} {w : Width} {a : Nat} (hin : a + w.bytes ≤ size) :
    accessReachesBuf size w (0x800 + a) = true := by
  rw [accessReachesBuf_iff]; omega

theorem hostRead_of_wellFormed {s : State} {w : Width} {off : Nat}
    (h : accessWellFormed s.params.bufSize w off = true) : hostRead s w off = .next (s.busRead w off) :=
  guardAccess_of_wellFormed h _

theorem hostWrite_of_wellFormed {s : State} {w : Width} {off : Nat} (v : Word)
    (h : accessWellFormed s.params.bufSize w off = true) : hostWrite s w off v = .next (s.busWrite w off v) :=
  guardAccess_of_wellFormed h _

/-- What a register's write does, for a register at a known offset below the BUF window. -/
theorem busWrite_register {s : State} {off : Nat} {r : Reg} (v : Word) (hlt : off < 0x800) (hr : regAt off = some r) :
    s.busWrite .w32 off v = s.writeReg r v := by
  simp [State.busWrite, accessReachesBuf_low hlt, hr]

/-- The step of a 32-bit write to a register. -/
theorem step_write_register {s : State} {off : Nat} {v : Word} {r : Reg}
    (h : s.script.head? = some (.write .w32 off v)) (h4 : off % 4 = 0) (hlt : off < 0x800) (hr : regAt off = some r) :
    step s = .next (s.popTurn.writeReg r v) := by
  rw [step_of_head h]
  show hostWrite s.popTurn .w32 off v = _
  rw [hostWrite_of_wellFormed v (accessWellFormed_register h4 hlt), busWrite_register v hlt hr]

/-- Every write of a host leaves one of these states (R34, R44 to R48, R72, R75, R276). -/
theorem busWrite_cases (s : State) (w : Width) (off : Nat) (v : Word) :
    s.busWrite w off v = s
      ∨ s.busWrite w off v = s.ignoreWrite ∧ s.busy = true
      ∨ (off = 0x008 ∧ v.getLsbD 0 = true ∧ s.busWrite w off v = s.softReset)
      ∨ (off = 0x008 ∧ v.getLsbD 1 = true ∧ s.busWrite w off v = { s with wign := false })
      ∨ (s.busy = false ∧ s.ready = true ∧ s.busWrite w off v = s.accept v)
      ∨ (off = 0x010 ∧ s.busy = false ∧ s.ready = false ∧ s.busWrite w off v = s.rejectNotReady)
      ∨ (s.busy = false ∧ s.busWrite w off v = { s with arg0 := v })
      ∨ (s.busy = false ∧ s.busWrite w off v = { s with arg1 := v })
      ∨ (s.busy = false ∧ s.busWrite w off v = { s with arg2 := v })
      ∨ (s.busy = false ∧ s.busWrite w off v = { s with codecCfg := storedCodecCfg v })
      ∨ (s.busy = false ∧ accessReachesBuf s.params.bufSize w off = true
          ∧ s.busWrite w off v = s.memWrite (off - Config.bufOffset) ((List.range w.bytes).map (byteLane v))) := by
  unfold State.busWrite
  split_ifs with hbuf
  · cases hb : s.busy <;> simp [State.writeBuf, hb, hbuf]
  · unfold regAt
    split
    · split at * <;> rename_i heq <;> simp only [Option.some.injEq, reduceCtorEq] at heq
      all_goals subst heq
      all_goals simp only [State.writeReg, State.writeCtrl, State.writeCmd]
      all_goals (cases hb : s.busy <;> cases hr : s.ready <;> cases v.getLsbD 0 <;> cases v.getLsbD 1 <;> simp)
    · exact .inl rfl

end Sys2Proof.Machine
end

