-- ==== Sys2Proof/Tests/Slice0.lean ====
section
/-! SUPPORT. Tests of the model against the spec's own values (95_test_vectors.md, under PB-REF), the smoke tests of the
well-formedness checks, and a witness for every statement that has hypotheses. -/

namespace Sys2Proof.Tests

open Sys2Proof.Machine

/-! ### Well-formedness: each check refuses an ill-formed term -/

theorem test_params_pbRef_wellFormed : Params.pbRef.wellFormed = true := by decide +kernel

theorem test_params_refuse_degree : { Params.pbRef with rsGfPoly := 0x087#9 }.gfPolyDegreeOk = false := by decide

/-- z has order 51 modulo 0x11B, which is irreducible and not primitive. -/
theorem test_params_refuse_notPrimitive : { Params.pbRef with rsGfPoly := 0x11B#9 }.gfPolyPrimitive = false := by
  decide +kernel

theorem test_params_refuse_fcr : { Params.pbRef with rsFcr := 255 }.fcrOk = false := by decide

theorem test_params_refuse_prim :
    { Params.pbRef with rsPrim := 0 }.primOk = false ∧ { Params.pbRef with rsPrim := 255 }.primOk = false
      ∧ { Params.pbRef with rsPrim := 51 }.primOk = false := by decide

theorem test_params_refuse_bufSize :
    { Params.pbRef with bufSize := 252 }.bufSizeOk = false ∧ { Params.pbRef with bufSize := 2052 }.bufSizeOk = false
      ∧ { Params.pbRef with bufSize := 510 }.bufSizeOk = false := by decide

theorem test_params_refuse_base : { Params.pbRef with pbkBase := 0x1800 }.baseAligned = false := by decide

theorem test_params_wellFormed_refuses : { Params.pbRef with rsFcr := 255 }.wellFormed = false := by
  simp [Params.wellFormed, test_params_refuse_fcr]

theorem test_access_refuse_window : accessWellFormed 512 .w32 0x1000 = false := by decide

theorem test_access_refuse_misaligned :
    accessWellFormed 512 .w32 0x802 = false ∧ accessWellFormed 512 .w16 0x801 = false := by decide

theorem test_access_refuse_subword :
    accessWellFormed 512 .w8 0x00C = false ∧ accessWellFormed 512 .w16 0x7FE = false := by decide

theorem test_access_refuse_bufEnd : accessWellFormed 510 .w32 0x9FC = false := by decide

theorem test_access_accepts :
    accessWellFormed 512 .w32 0x9FC = true ∧ accessWellFormed 512 .w8 0x9FF = true
      ∧ accessWellFormed 512 .w32 0x7FC = true := by decide

/-! ### Decoding: words written out from R102, and reserved words (R103) -/

theorem test_decode_crc16 : decodeWord 0b00000000000000000000000000000001#32 = .ok .crc16 := by decide

theorem test_decode_gfMul : decodeWord 0b00000000000000000000000000000010#32 = .ok .gfMul := by decide

theorem test_decode_gfDiv : decodeWord 0b00000000000000000000000000000011#32 = .ok .gfDiv := by decide

theorem test_decode_polyEval : decodeWord 0b00000000000000000000000000000100#32 = .ok .polyEval := by decide

theorem test_decode_rsEncode : decodeWord 0b00000000000000000000000000000101#32 = .ok .rsEncode := by decide

theorem test_decode_rsDecode : decodeWord 0b00000000000000000000000000000110#32 = .ok .rsDecode := by decide

theorem test_decode_buildData : decodeWord 0b00000000000000000000000000000111#32 = .ok .buildData := by decide

theorem test_decode_buildSuper : decodeWord 0b00000000000000000000000000001000#32 = .ok .buildSuper := by decide

theorem test_decode_verify : decodeWord 0b00000000000000000000000000001001#32 = .ok .verify := by decide

theorem test_decode_blockKind : decodeWord 0b00000000000000000000000000001010#32 = .ok .blockKind := by decide

theorem test_decode_reserved :
    decodeWord 0x00000000#32 = .error .reservedOpcode ∧ decodeWord 0x0000000B#32 = .error .reservedOpcode
      ∧ decodeWord 0x000000FF#32 = .error .reservedOpcode ∧ decodeWord 0x00000101#32 = .error .reservedBits
      ∧ decodeWord 0x80000001#32 = .error .reservedBits := by decide

theorem test_decodeTableWord : decodeTableWord 32 9 = some .verify ∧ decodeTableWord 8 0x10A = some .blockKind := by
  decide

/-! ### Small states -/

/-- A machine with the parameters PB-REF and its tables built. -/
def ready : State :=
  { State.reset with params := Params.pbRef, ready := true, tables := Tables.build Params.pbRef }

/-- `ready` with bytes stored in BUF and ARG0 to ARG2 written. -/
def loaded (off : Nat) (bytes : List Byte) (a0 a1 a2 : Word) : State :=
  { ready with mem := Memory.storeAll [] off bytes, arg0 := a0, arg1 := a1, arg2 := a2 }

/-- The command ends with this code and these results. -/
def ends (i : Instr) (s : State) (e : ErrCode) (r0 r1 : Word) : Bool :=
  match exec i s with
  | .next t => t.err == e && t.result0 == r0 && t.result1 == r1 && !t.busy && t.done
  | _ => false

/-- The command ends with these bytes in BUF. -/
def leaves (i : Instr) (s : State) (off : Nat) (bytes : List Byte) : Bool :=
  match exec i s with
  | .next t => t.memRead off bytes.length == bytes
  | _ => false

/-- The step goes on. -/
def goesOn (s : State) : Bool :=
  match step s with
  | .next _ => true
  | _ => false

/-- What a step of the machine leaves STATUS reading as. -/
def statusAfter (s : State) : Option Word :=
  match step s with
  | .next t => some t.statusWord
  | _ => none

/-- What the bus holds after a step of the machine. -/
def busAfter (s : State) : Option Word :=
  match step s with
  | .next t => t.busData
  | _ => none

/-! ### Commands -/

/-- V-CRC-1. -/
theorem test_crc16_check :
    ends .crc16 (loaded 0 [0x31, 0x32, 0x33, 0x34, 0x35, 0x36, 0x37, 0x38, 0x39] 0 9 0) .eNone 0x31C3#32 0#32 = true := by
  decide +kernel

/-- V-CRC-3, V-CRC-4 and V-CRC-11. -/
theorem test_crc16_range :
    ends .crc16 (loaded 0 [] 512 0 0) .eNone 0#32 0#32 = true ∧ ends .crc16 (loaded 0 [] 512 1 0) .eRange 0#32 0#32 = true
      ∧ ends .crc16 (loaded 0 [] 0xFFFFFFFF#32 2 0) .eRange 0#32 0#32 = true := by decide +kernel

/-- V-CRC-14: the reflected form. -/
theorem test_crc16_reflected :
    crc16 { Params.pbRef with crcPoly := 0x8005#16, crcReflect := true }
      (Tables.build { Params.pbRef with crcPoly := 0x8005#16, crcReflect := true })
      [0x31, 0x32, 0x33, 0x34, 0x35, 0x36, 0x37, 0x38, 0x39] = 0xBB3D#16 := by decide +kernel

/-- V-GF-6, V-GF-4 and V-GF-10. -/
theorem test_gfMul :
    ends .gfMul (loaded 0 [] 0x57 0x83 0) .eNone 0xE7#32 0#32 = true
      ∧ ends .gfMul (loaded 0 [] 0x02 0x80 0) .eNone 0x87#32 0#32 = true
      ∧ ends .gfMul (loaded 0 [] 0x00000102 0x00000003 0) .eNone 0x06#32 0#32 = true := by decide +kernel

/-- V-GF-11 and V-GF-17. -/
theorem test_gfDiv :
    ends .gfDiv (loaded 0 [] 0x01 0x02 0) .eNone 0xC3#32 0#32 = true
      ∧ ends .gfDiv (loaded 0 [] 0x57 0x83 0) .eNone 0xBF#32 0#32 = true := by decide +kernel

/-- V-GF-19 and V-GF-20. -/
theorem test_gfDiv_zero :
    ends .gfDiv (loaded 0 [] 0x00 0x00 0) .eArg 0#32 0#32 = true
      ∧ ends .gfDiv (loaded 0 [] 0x57 0x100 0) .eArg 0#32 0#32 = true := by decide +kernel

/-- V-PE-1 and V-PE-3. -/
theorem test_polyEval :
    ends .polyEval (loaded 0 [0x01, 0x02, 0x03] 0 3 0x02) .eNone 0x03#32 0#32 = true
      ∧ ends .polyEval (loaded 0 [0x01, 0x02, 0x03] 0 3 0x00) .eNone 0x03#32 0#32 = true := by decide +kernel

/-- V-PE-7. -/
theorem test_polyEval_range : ends .polyEval (loaded 0 [] 510 3 0x02) .eRange 0#32 0#32 = true := by decide +kernel

/-- V-CFG-7 and V-RS-16. -/
theorem test_rsEncode_errors :
    ends .rsEncode { loaded 0 [] 0xFFFFFFFF#32 0 0 with codecCfg := 0x000000FF#32 } .eConfig 0#32 0#32 = true
      ∧ ends .rsEncode (loaded 0 [] 385 0 0) .eRange 0#32 0#32 = true := by decide +kernel

/-- V-RS-12. -/
theorem test_rsDecode_fails :
    ends .rsDecode { loaded 0 [0x11, 0x20, 0x30, 0xBA] 0 0 0 with codecCfg := 0x00000104#32 } .eUncorrectable 0#32 0#32
      = true := by decide +kernel

/-- The sentinel is no data address, and the range is checked before it (R220, R244). -/
theorem test_buildData_errors :
    ends .buildData (loaded 0 [] 384 0xFFFFFFFF#32 0) .eArg 0#32 0#32 = true
      ∧ ends .buildData (loaded 0 [] 385 0xFFFFFFFF#32 0) .eRange 0#32 0#32 = true := by decide +kernel

theorem test_verify_range : ends .verify (loaded 0 [] 385 0 0) .eRange 0#32 0#32 = true := by decide +kernel

/-- V-BLK-12. -/
theorem test_blockKind :
    ends .blockKind (loaded 508 [0xFF, 0xFF, 0xFF, 0xFF] 508 0 0) .eNone 1#32 0#32 = true
      ∧ ends .blockKind (loaded 0 [0xFE, 0xFF, 0xFF, 0xFF] 0 0 0) .eNone 0#32 0#32 = true
      ∧ ends .blockKind (loaded 0 [] 509 0 0) .eRange 0#32 0#32 = true := by decide +kernel

/-! ### Host accesses and control -/

/-- The first transactions of P4: a command before READY is rejected. -/
theorem test_cmd_notReady :
    statusAfter { State.reset with script := [.write .w32 0x010 0x00000001#32] } = some 0x0000040C#32 := by decide +kernel

/-- P1: the STATUS read before and after initialisation. -/
theorem test_status_reset :
    State.reset.statusWord = 0x00000008#32 ∧ statusAfter State.reset = some 0x00000009#32 := by decide +kernel

/-- P1: the STATUS read while a command is pending. -/
theorem test_status_busy :
    statusAfter { ready with script := [.write .w32 0x010 0x00000001#32] } = some 0x0000000B#32 := by decide +kernel

/-- P3: a 16-bit read of two BUF bytes. -/
theorem test_read_halfword :
    busAfter { loaded 8 [0x82, 0xC7] 0 0 0 with script := [.read .w16 0x808] } = some 0xC782#32 := by decide +kernel

/-- V-CFG-5: bits 31:24 of CODEC_CFG are not stored. -/
theorem test_codecCfg_reserved :
    storedCodecCfg 0xFF7F20FF#32 = 0x007F20FF#32 ∧ storedCodecCfg 0x0006040A#32 = 0x0006040A#32 := by decide

/-- V-HZ-1, write first: the write is ignored and WIGN set. -/
theorem test_busy_write :
    statusAfter { ready with busy := true, pending := 1#32, script := [.write .w32 0x018 3#32] } = some 0x0000001B#32 := by
  decide +kernel

/-- After reset, the very next step runs the placed word, whatever the parameters are. -/
theorem test_withFetchWord :
    (List.range 10).all (fun k => goesOn (State.reset.withFetchWord 32 (k + 1))) = true
      ∧ (State.reset.withFetchWord 32 9).pending = 9#32 := by decide +kernel

/-! ### Witnesses: states and operands that meet the hypotheses of the statements -/

/-- A state with one turn waiting. -/
def waits (s : State) (t : Turn) : State := { s with script := [t] }

/-- `ready` with a command pending on a block at offset 0. -/
def pendingVerify : State := { ready with busy := true, pending := 9#32 }

theorem witness_initialised : ready.Initialised := ⟨test_params_pbRef_wellFormed, rfl⟩

theorem witness_loaded_initialised (off : Nat) (bytes : List Byte) (a0 a1 a2 : Word) :
    (loaded off bytes a0 a1 a2).Initialised := ⟨test_params_pbRef_wellFormed, rfl⟩

/-- EveryStepKeepsTheInvariant: a state with the invariant and a step that goes on. -/
theorem witness_EveryStepKeepsTheInvariant :
    (waits ready (.write .w32 0x014 7#32)).Inv ∧ goesOn (waits ready (.write .w32 0x014 7#32)) = true :=
  ⟨⟨test_params_pbRef_wellFormed, by decide, by decide, fun _ => rfl, by decide, by decide, ⟨List.Pairwise.nil, by simp [waits, ready, State.reset]⟩,
    by decide⟩, by decide +kernel⟩

theorem witness_HardResetAtAnyTime :
    (waits pendingVerify .hardReset).script.head? = some .hardReset ∧ pendingVerify.busy = true := by decide

/-- Both cases of the aborted region: an idle engine, and a pending VERIFY whose region ends at 127. -/
theorem witness_SoftReset :
    (waits pendingVerify (.write .w32 0x008 3#32)).script.head? = some (.write .w32 0x008 3#32)
      ∧ (3#32).getLsbD 0 = true ∧ pendingVerify.inWriteRegion 127 = true ∧ pendingVerify.inWriteRegion 128 = false
      ∧ ready.busy = false := by decide

theorem witness_CtrlWithoutReset :
    (waits pendingVerify (.write .w32 0x008 2#32)).script.head? = some (.write .w32 0x008 2#32)
      ∧ (2#32).getLsbD 0 = false ∧ (0xFFFFFFFC#32).getLsbD 0 = false ∧ (0xFFFFFFFC#32).getLsbD 1 = false := by decide

theorem witness_InitialisationStep : State.reset.ready = false ∧ State.reset.engineNext := ⟨rfl, rfl⟩

/-- BuiltTables, TableArithmetic, ParityCompletes and the decoder's statements: parameters that are well formed. -/
theorem witness_params : Params.pbRef.wellFormed = true := test_params_pbRef_wellFormed

theorem witness_CmdWriteIsAccepted :
    (waits ready (.write .w32 0x010 11#32)).script.head? = some (.write .w32 0x010 11#32)
      ∧ (waits ready (.write .w32 0x010 11#32)).ready = true ∧ (waits ready (.write .w32 0x010 11#32)).busy = false := by
  decide

/-- One clause each: CMD, ARG0, ARG1, ARG2, CODEC_CFG and the last bytes of BUF. -/
theorem witness_CmdBeforeReady :
    (∀ off ∈ [0x010, 0x014, 0x018, 0x01C, 0x020],
        (waits State.reset (.write .w32 off 1#32)).script.head? = some (.write .w32 off 1#32))
      ∧ State.reset.ready = false ∧ State.reset.busy = false
      ∧ 508 % Width.w32.bytes = 0 ∧ 508 + Width.w32.bytes ≤ State.reset.params.bufSize ∧ 0x800 + 508 < 0x1000
      ∧ 511 % Width.w8.bytes = 0 ∧ 511 + Width.w8.bytes ≤ State.reset.params.bufSize := by decide

/-- A register, both ends of BUF, a read-only register, a reserved offset and CTRL. -/
theorem witness_BusyWrites :
    pendingVerify.busy = true
      ∧ (∀ off ∈ [0x000, 0x008, 0x010, 0x020, 0x02C, 0x800, 0x9FC, 0xA00],
          accessWellFormed pendingVerify.params.bufSize .w32 off = true
            ∧ (waits pendingVerify (.write .w32 off 3#32)).script.head? = some (.write .w32 off 3#32)) := by decide +kernel

/-- `ready` with a word pending. -/
def pendingWord (w : Word) : State := { ready with busy := true, pending := w }

/-- The reserved words 0, 11 and 0x101. -/
theorem witness_ReservedWords :
    (pendingWord 0#32).pending.toNat = 0 ∧ 10 < (pendingWord 11#32).pending.toNat
      ∧ 10 < (pendingWord 0x101#32).pending.toNat := by decide

theorem witness_ReservedWords_engineNext (w : Word) :
    (pendingWord w).ready = true ∧ (pendingWord w).busy = true ∧ (pendingWord w).engineNext := ⟨rfl, rfl, rfl⟩

theorem witness_StepRuns :
    pendingVerify.ready = true ∧ pendingVerify.busy = true ∧ decodeWord pendingVerify.pending = .ok .verify := by decide

theorem witness_StepRuns_engineNext : pendingVerify.engineNext := rfl

theorem witness_EngineBecomesQuiescent : pendingVerify.script = [] ∧ State.reset.script = [] := by decide

/-- The quiescent engine, with its turn at the head of the script and with an empty script. -/
theorem witness_QuiescentEngine :
    ready.ready = true ∧ ready.busy = false ∧ (waits ready .engine).engineNext ∧ ready.engineNext := ⟨rfl, rfl, rfl, rfl⟩

theorem witness_StatusRead :
    (waits State.reset (.read .w32 0x00C)).script.head? = some (.read .w32 0x00C) := by decide

/-- RegisterReads, at both ends of the register offsets. -/
theorem witness_RegisterReads :
    ∀ off ∈ [0x000, 0x004, 0x008, 0x00C, 0x010, 0x014, 0x018, 0x01C, 0x020, 0x024, 0x028, 0x02C, 0x7FC],
      (waits ready (.read .w32 off)).script.head? = some (.read .w32 off) ∧ off % 4 = 0 ∧ off < 0x800 := by decide

theorem witness_IdleRegisterWrites :
    ∀ off ∈ [0x000, 0x004, 0x00C, 0x014, 0x018, 0x01C, 0x020, 0x024, 0x028],
      (waits ready (.write .w32 off 5#32)).script.head? = some (.write .w32 off 5#32) ∧ ready.busy = false := by decide

theorem witness_ReadsHaveNoSideEffect :
    (waits pendingVerify (.read .w8 0x87F)).script.head? = some (.read .w8 0x87F)
      ∧ accessWellFormed pendingVerify.params.bufSize .w8 0x87F = true ∧ ready.busy = false := by decide

/-- Misaligned, sub-word and, with a BUF of 510 bytes, across its end. -/
theorem witness_IllegalAccesses :
    (0xFFF < 0x1000 ∧ 0xFFF % Width.w16.bytes ≠ 0) ∧ (0x7FF < 0x800 ∧ 0x7FF % Width.w8.bytes = 0 ∧ Width.w8 ≠ .w32)
      ∧ (0x9FC < 0x1000 ∧ 0x9FC % Width.w32.bytes = 0 ∧ 0x800 ≤ 0x9FC ∧ 0x9FC < 0x800 + 510
        ∧ 0x800 + 510 < 0x9FC + Width.w32.bytes) ∧ 0x1000 ≤ 0x1000
      ∧ (waits ready (.read .w16 0xFFF)).script.head? = some (.read .w16 0xFFF)
      ∧ (waits ready (.write .w32 0x1000 0#32)).script.head? = some (.write .w32 0x1000 0#32)
      ∧ { waits ready (.read .w32 0x9FC) with params := { Params.pbRef with bufSize := 510 } }.params.bufSize = 510 := by
  decide

/-- The first and the last reserved offset of both ranges. -/
theorem witness_ReservedOffsets :
    (∀ off ∈ [0x02C, 0x7FC], off < 0x1000 ∧ off % Width.w32.bytes = 0 ∧ 0x02C ≤ off ∧ off < 0x800)
      ∧ (∀ off ∈ [0xA00, 0xFFF], off < 0x1000 ∧ off % Width.w8.bytes = 0 ∧ 0x800 + ready.params.bufSize ≤ off)
      ∧ (waits ready (.read .w8 0xFFF)).script.head? = some (.read .w8 0xFFF) := by decide

/-- The first and the last access to BUF of each width. -/
theorem witness_BufWindow :
    (∀ w ∈ [Width.w8, .w16, .w32], 512 - w.bytes + w.bytes ≤ ready.params.bufSize ∧ (512 - w.bytes) % w.bytes = 0
        ∧ 0x800 + (512 - w.bytes) < 0x1000 ∧ 0 % w.bytes = 0 ∧ w.bytes ≤ ready.params.bufSize) ∧ ready.busy = false
      ∧ (waits ready (.write .w16 (0x800 + 510) 1#32)).script.head? = some (.write .w16 (0x800 + 510) 1#32)
      ∧ (waits ready (.read .w16 (0x800 + 510))).script.head? = some (.read .w16 (0x800 + 510)) := by decide

theorem witness_MixedWidth :
    ready.busy = false ∧ 508 % 4 = 0 ∧ 3 < 4 ∧ 508 + 4 ≤ ready.params.bufSize ∧ 0x800 + 508 < 0x1000
      ∧ { ready with script := [.write .w32 (0x800 + 508) 1#32, .read .w8 (0x800 + 508 + 3)] }.script
        = .write .w32 (0x800 + 508) 1#32 :: .read .w8 (0x800 + 508 + 3) :: [] := by decide

/-- An access with one byte in the write region of a VERIFY at offset 1 and one outside. -/
theorem witness_BusyReads :
    { pendingVerify with arg0 := 1#32 }.busy = true ∧ { pendingVerify with arg0 := 1#32 }.inWriteRegion 128 = true
      ∧ { pendingVerify with arg0 := 1#32 }.inWriteRegion 129 = false ∧ 128 % Width.w16.bytes = 0
      ∧ 128 + Width.w16.bytes ≤ pendingVerify.params.bufSize ∧ 0x800 + 128 < 0x1000
      ∧ (waits { pendingVerify with arg0 := 1#32 } (.read .w16 (0x800 + 128))).script.head?
        = some (.read .w16 (0x800 + 128)) := by decide

/-- `ready` with a word pending at an offset of BUF. -/
def pendingAt (w off cfg : Word) : State := { pendingWord w with arg0 := off, codecCfg := cfg }

/-- R105 on both sides of the ends of each region: the code (10, 4, 0) and blocks, and regions emptied by the range check. -/
theorem witness_PendingWriteRegion :
    [105, 106, 109, 110].map (pendingAt 5#32 100#32 0x40A#32).inWriteRegion = [false, true, true, false]
      ∧ [501, 502, 511, 512].map (pendingAt 6#32 502#32 0x40A#32).inWriteRegion = [false, true, true, false]
      ∧ [99, 100, 103, 104, 193, 194, 227, 228].map (pendingAt 7#32 100#32 0#32).inWriteRegion
        = [false, true, true, false, false, true, true, false]
      ∧ [99, 100, 103, 104, 193, 194, 227, 228].map (pendingAt 8#32 100#32 0#32).inWriteRegion
        = [false, true, true, false, false, true, true, false]
      ∧ [383, 384, 511, 512].map (pendingAt 9#32 384#32 0#32).inWriteRegion = [false, true, true, false]
      ∧ [4#32, 10#32, 0x109#32].map (fun w => (pendingAt w 0#32 0x40A#32).inWriteRegion 0) = [false, false, false]
      ∧ (pendingAt 6#32 503#32 0x40A#32).inWriteRegion 503 = false
      ∧ (pendingAt 9#32 385#32 0#32).inWriteRegion 385 = false := by decide +kernel

theorem witness_WignIsSticky :
    step (waits { ready with wign := true } (.write .w32 0x008 2#32)) = .next { ready with wign := false } := by rfl

theorem witness_TablesNeverChange : step { ready with script := [] } = .next { ready with script := [] } := by rfl

/-- A command's end and a rejected CMD write, each of which changes ERR. -/
theorem witness_ResultsChange :
    step { ready with busy := true, pending := 0#32 } = .next ({ ready with busy := true, pending := 0#32 }.raise .eBadOpcode)
      ∧ step (waits State.reset (.write .w32 0x010 1#32)) = .next State.reset.rejectNotReady := ⟨rfl, rfl⟩

/-- A STATUS read and an ignored ARG1 write before the engine's turn. -/
theorem witness_PendingCommand :
    ∃ u, Host.Core.run Sys2Proof.core 2
        { pendingVerify with script := [.read .w32 0x00C, .write .w32 0x018 3#32, .engine] } = .next u
      ∧ u.script = [.engine] := ⟨_, rfl, rfl⟩

/-- ErrorsAreReportedInCheckOrder and CommandsWriteInsideTheirRegion: a command that ends. -/
theorem witness_exec : exec .gfDiv ready = .next (ready.raise .eArg) := by rfl

/-- Crc16 and PolyEval: a span that ends at the end of BUF, and one byte more. -/
theorem witness_spans :
    ((loaded 0 [] 503 9 0).Initialised
        ∧ (loaded 0 [] 503 9 0).arg0.toNat + (loaded 0 [] 503 9 0).arg1.toNat ≤ (loaded 0 [] 503 9 0).params.bufSize)
      ∧ (loaded 0 [] 503 10 0).Initialised
      ∧ (loaded 0 [] 503 10 0).params.bufSize < (loaded 0 [] 503 10 0).arg0.toNat + (loaded 0 [] 503 10 0).arg1.toNat :=
  ⟨⟨witness_loaded_initialised .., by decide⟩, witness_loaded_initialised .., by decide⟩

theorem witness_GfDiv :
    ((loaded 0 [] 5 0x107 0).Initialised ∧ (loaded 0 [] 5 0x107 0).arg1.extractLsb' 0 8 ≠ 0#8)
      ∧ (loaded 0 [] 5 0x100 0).Initialised ∧ (loaded 0 [] 5 0x100 0).arg1.extractLsb' 0 8 = 0#8 :=
  ⟨⟨witness_loaded_initialised .., by decide⟩, witness_loaded_initialised .., by decide⟩

/-- Blocks and BLOCK_KIND: the last block of BUF, one byte more, and both kinds of address. -/
theorem witness_blocks :
    (loaded 0 [] 384 15 0).Initialised ∧ (loaded 0 [] 384 0xFFFFFFFF#32 0).Initialised
      ∧ (loaded 0 [] 384 15 0).arg0.toNat + 128 ≤ (loaded 0 [] 384 15 0).params.bufSize
      ∧ (loaded 0 [] 384 15 0).arg1 ≠ 0xFFFFFFFF#32 ∧ (loaded 0 [] 384 0xFFFFFFFF#32 0).arg1 = 0xFFFFFFFF#32
      ∧ (loaded 0 [] 385 0 0).params.bufSize < (loaded 0 [] 385 0 0).arg0.toNat + 128
      ∧ (loaded 0 [] 508 0 0).arg0.toNat + 4 ≤ (loaded 0 [] 508 0 0).params.bufSize
      ∧ (loaded 0 [] 509 0 0).params.bufSize < (loaded 0 [] 509 0 0).arg0.toNat + 4 :=
  ⟨witness_loaded_initialised .., witness_loaded_initialised .., by decide⟩

/-- The V-RS-11 word and the zero word are codewords of the code with one parity symbol. -/
theorem witness_CodewordsDiffer :
    IsCodeword Params.pbRef 1 [0x10, 0x20, 0x30, 0xBA] ∧ IsCodeword Params.pbRef 1 [0, 0, 0, 0]
      ∧ [0x10, 0x20, 0x30, 0xBA] ≠ ([0, 0, 0, 0] : List Byte) := by
  unfold IsCodeword; decide +kernel

/-- The shortest word of the code with one parity symbol, and what the decoder makes of it. -/
theorem witness_decoder :
    1 ≤ 1 ∧ 1 + 1 ≤ ([0, 0] : List Byte).length ∧ ([0, 0] : List Byte).length ≤ 255
      ∧ rsCorrect Params.pbRef (Tables.build Params.pbRef) 1 [0, 0] = some ([0, 0], 0) := by decide +kernel

/-- The generator `01 71 2F` of the code (3, 2, 0) with its middle symbol wrong, at the end of BUF. -/
def wrongWord : State := { loaded 509 [0x01, 0x70, 0x2F] 509 0 0 with codecCfg := 0x00000203#32 }

theorem witness_RsCommands :
    wrongWord.Initialised ∧ wrongWord.codec.valid = true
      ∧ wrongWord.arg0.toNat + (wrongWord.codec.n - wrongWord.codec.pad) ≤ wrongWord.params.bufSize :=
  ⟨⟨test_params_pbRef_wellFormed, rfl⟩, by decide⟩

theorem witness_RsDecodeRestores :
    IsCodeword wrongWord.params wrongWord.codec.necc [0x01, 0x71, 0x2F]
      ∧ ([0x01, 0x71, 0x2F] : List Byte).length = wrongWord.codec.n - wrongWord.codec.pad
      ∧ symbolErrors (wrongWord.memRead wrongWord.arg0.toNat 3) [0x01, 0x71, 0x2F] = 1 ∧ wrongWord.codec.necc / 2 = 1 := by
  unfold IsCodeword; decide +kernel

/-- RsDecodeAccepts: the same state with the codeword in BUF. -/
def rightWord : State := { wrongWord with mem := Memory.storeAll [] 509 [0x01, 0x71, 0x2F] }

theorem witness_RsDecodeAccepts :
    rightWord.Initialised ∧ rightWord.codec.valid = true
      ∧ rightWord.arg0.toNat + (rightWord.codec.n - rightWord.codec.pad) ≤ rightWord.params.bufSize
      ∧ IsCodeword rightWord.params rightWord.codec.necc
        (rightWord.memRead rightWord.arg0.toNat (rightWord.codec.n - rightWord.codec.pad)) :=
  ⟨⟨test_params_pbRef_wellFormed, rfl⟩, by decide, by decide, by unfold IsCodeword; decide +kernel⟩

theorem fieldMul_zero_left (poly : BitVec 9) (x : Byte) : fieldMul poly 0#8 x = 0#8 := by
  have h : ∀ i, (timesZ poly)^[i] 0#8 = 0#8 := fun i => Function.iterate_fixed (by simp [timesZ]) i
  simp only [fieldMul, h]
  generalize List.range 8 = l
  induction l with
  | nil => rfl
  | cons i l ih => simp

/-- The word of zeros is a codeword of every code. -/
theorem zeros_isCodeword (p : Params) (necc n : Nat) : IsCodeword p necc (List.replicate n 0#8) := by
  intro i _
  generalize alphaPow p.rsGfPoly _ = x
  induction n with
  | zero => rfl
  | succ n ih => simp [fieldEval, List.replicate_succ, fieldMul_zero_left] at ih ⊢; exact ih

/-- Zero bytes leave a zero CRC register as it is. -/
theorem crcSerial_zeros (p : Params) (n : Nat) (h : p.crcInit = 0#16) : crcSerial p (List.replicate n 0#8) = p.crcXorOut := by
  have hb : crcSerialByte p 0#16 0#8 = 0#16 := by
    have : crcBit p 0#16 = 0#16 := by simp [crcBit]
    simp [crcSerialByte, Function.iterate_fixed this]
  have hf : (List.replicate n 0#8).foldl (crcSerialByte p) 0#16 = 0#16 := by
    induction n with
    | zero => rfl
    | succ n ih => rw [List.replicate_succ, List.foldl_cons, hb, ih]
  rw [crcSerial, h, hf, BitVec.zero_xor]

/-- PB-REF with a final exclusive or under which the block of zeros is well formed. -/
def zeroParams : Params := { Params.pbRef with crcXorOut := 0x55AA#16 }

theorem zeroParams_wellFormed : zeroParams.wellFormed = true := test_params_pbRef_wellFormed

theorem zeros_isBlock : IsBlock zeroParams (List.replicate 128 0#8) :=
  ⟨by simp, by rw [List.take_replicate, crcSerial_zeros _ _ rfl]; rfl, zeros_isCodeword _ _ _⟩

theorem zeros_checksumBad :
    crcSerial Params.pbRef ((List.replicate 128 0#8).take 94) ≠ checksumField (List.replicate 128 0#8) ^^^ 0x55AA#16 := by
  rw [List.take_replicate, crcSerial_zeros _ _ rfl]
  decide

/-- A block that fills the end of BUF, its first `k` bytes 0xA5 and the others 0. -/
def blockBytes (k : Nat) : List Byte := List.replicate k 0xA5#8 ++ List.replicate (128 - k) 0#8

def blockAtEnd (p : Params) (k : Nat) : State :=
  { loaded 384 (blockBytes k) 384 0 0 with params := p, tables := Tables.build p }

theorem blockAtEnd_memRead (p : Params) {k : Nat} (h : k ≤ 128) : (blockAtEnd p k).memRead 384 128 = blockBytes k := by
  have hl : (blockBytes k).length = 128 := by simp [blockBytes]; omega
  have := State.memRead_memWrite { blockAtEnd p k with mem := [] } 384 (blockBytes k)
  rw [hl] at this
  exact this

theorem blockAtEnd_initialised {p : Params} (k : Nat) (h : p.wellFormed = true) : (blockAtEnd p k).Initialised := ⟨h, rfl⟩

/-- VerifyReportsAnIntactBlock. -/
theorem witness_VerifyIntact :
    (blockAtEnd zeroParams 0).Initialised
      ∧ (blockAtEnd zeroParams 0).arg0.toNat + 128 ≤ (blockAtEnd zeroParams 0).params.bufSize
      ∧ IsBlock zeroParams ((blockAtEnd zeroParams 0).memRead 384 128) := by
  refine ⟨blockAtEnd_initialised 0 zeroParams_wellFormed, by decide, ?_⟩
  rw [blockAtEnd_memRead _ (Nat.zero_le _)]
  exact zeros_isBlock

/-- VerifyCorrects: one byte wrong, and 16. -/
theorem witness_VerifyCorrects :
    ∀ k ∈ [1, 16], (blockAtEnd zeroParams k).Initialised
      ∧ (blockAtEnd zeroParams k).arg0.toNat + 128 ≤ (blockAtEnd zeroParams k).params.bufSize
      ∧ IsBlock zeroParams (List.replicate 128 0#8)
      ∧ symbolErrors ((blockAtEnd zeroParams k).memRead 384 128) (List.replicate 128 0#8) = k := by
  intro k hk
  have h : k = 1 ∨ k = 16 := by simpa using hk
  refine ⟨blockAtEnd_initialised k zeroParams_wellFormed, Nat.le_refl 512, zeros_isBlock, ?_⟩
  rw [blockAtEnd_memRead _ (by omega)]
  rcases h with rfl | rfl <;> decide +kernel

/-- VerifyReportsAChecksumMismatch and AllZeroBlockFails under PB-REF (V-BLK-8): the word of zeros, a codeword whose
checksum is bad, with none, one and 16 of its bytes wrong in BUF. -/
theorem witness_ChecksumMismatch :
    ∀ k ∈ [0, 1, 16], (blockAtEnd Params.pbRef k).Initialised
      ∧ (blockAtEnd Params.pbRef k).arg0.toNat + 128 ≤ (blockAtEnd Params.pbRef k).params.bufSize
      ∧ (List.replicate 128 0#8).length = 128 ∧ IsCodeword Params.pbRef 32 (List.replicate 128 0#8)
      ∧ symbolErrors ((blockAtEnd Params.pbRef k).memRead 384 128) (List.replicate 128 0#8) = k
      ∧ crcSerial Params.pbRef ((List.replicate 128 0#8).take 94)
        ≠ checksumField (List.replicate 128 0#8) ^^^ 0x55AA#16 := by
  intro k hk
  have h : k = 0 ∨ k = 1 ∨ k = 16 := by simpa using hk
  refine ⟨blockAtEnd_initialised k test_params_pbRef_wellFormed, Nat.le_refl 512, by simp, zeros_isCodeword _ _ _, ?_,
    zeros_checksumBad⟩
  rw [blockAtEnd_memRead _ (by omega)]
  rcases h with rfl | rfl | rfl <;> decide +kernel

/-! ### The tests that take the kernel longest (a second or more each) -/

/-- V-RS-13: an odd number of parity symbols, the word at the end of BUF. -/
theorem test_rsEncode :
    leaves .rsEncode
      { loaded 500 [0x07, 0x06, 0x05, 0x04, 0x03, 0x02, 0x01] 500 0 0 with codecCfg := 0x0000050C#32 } 500
      [0x07, 0x06, 0x05, 0x04, 0x03, 0x02, 0x01, 0xA9, 0x7C, 0x2B, 0x34, 0xB5] = true := by decide +kernel

/-- V-RS-5 without the search over all degrees: the errors stand at bytes 0 and 9, degrees 9 and 0. -/
theorem test_rsDecode_parts :
    let T := Tables.build Params.pbRef
    let r : List Byte := [0x11, 0x02, 0x03, 0x04, 0x05, 0x06, 0xCD, 0x80, 0x82, 0xC6]
    let syn := rsSyndromes Params.pbRef T 4 r
    let lam := bmLocator T 4 syn
    polyDegree lam = 2 ∧ evalLow T lam (gfPowInt T (rsBeta Params.pbRef T) (-9)) = 0#8
      ∧ evalLow T lam (gfPowInt T (rsBeta Params.pbRef T) 0) = 0#8
      ∧ applyCorrections Params.pbRef T (errorEvaluator T 4 syn lam) (formalDerivative lam) r [0, 9]
        = [0x01, 0x02, 0x03, 0x04, 0x05, 0x06, 0xCD, 0x80, 0x82, 0xC7] := by decide +kernel

/-- V-BLK-1: the checksum of the S6 block. -/
theorem test_buildData :
    ends .buildData (loaded 4 ((List.range 90).map (BitVec.ofNat 8)) 0 15 0) .eNone 0xD6E8#32 0#32 = true := by
  decide +kernel

/-- The metadata of the S7 superblock (V-BLK-9). -/
def s7Metadata : List Byte :=
  [0x5A, 0x00, 0x00, 0x00, 0x5A, 0x00, 0x00, 0x00, 0x5A, 0x00, 0x00, 0x00, 0x00, 0x00, 0x01, 0x00, 0xFA, 0x5B, 0xF7, 0xE6, 0xD5,
    0xC4, 0xB3, 0xA2, 0xD5, 0x01, 0x52, 0x45, 0x41, 0x44, 0x4D, 0x45, 0x2E, 0x74, 0x78, 0x74] ++ List.replicate 54 0#8

/-- The fields R201 places in the S7 superblock, by the table under V-BLK-9; the name ends where the checksum begins. -/
theorem test_metaFields :
    MetaField.page.bytes (List.replicate 4 0xFF#8 ++ s7Metadata) = [0x01, 0x00]
      ∧ MetaField.filecrc.bytes (List.replicate 4 0xFF#8 ++ s7Metadata) = [0xFA, 0x5B]
      ∧ MetaField.modified.bytes (List.replicate 4 0xFF#8 ++ s7Metadata)
        = [0xF7, 0xE6, 0xD5, 0xC4, 0xB3, 0xA2, 0xD5, 0x01]
      ∧ MetaField.name.bytes (List.replicate 4 0xFF#8 ++ s7Metadata)
        = [0x52, 0x45, 0x41, 0x44, 0x4D, 0x45, 0x2E, 0x74, 0x78, 0x74] ++ List.replicate 54 0#8
      ∧ MetaField.name.offset + MetaField.name.size = 94 := by decide +kernel

/-- V-BLK-9: the checksum of the S7 superblock. -/
theorem test_buildSuper : ends .buildSuper (loaded 4 s7Metadata 0 0 0) .eNone 0xFFB6#32 0#32 = true := by decide +kernel

/-- V-BLK-8: the all-zero block. -/
theorem test_verify_zeros :
    ends .verify (loaded 0 (List.replicate 128 0#8) 0 0 0) .eChecksum 4#32 0#32 = true := by decide +kernel

end Sys2Proof.Tests
end

/-! PROOFS. The statements about reset, the registers and the invariant of the machine. -/

namespace Sys2Proof.Machine

/-! ### Registers at their offsets -/

/-- The window offset of a register (R31). -/
def Reg.offset : Reg → Nat
  | .id => 0x000
  | .params => 0x004
  | .ctrl => 0x008
  | .status => 0x00C
  | .cmd => 0x010
  | .arg0 => 0x014
  | .arg1 => 0x018
  | .arg2 => 0x01C
  | .codecCfg => 0x020
  | .result0 => 0x024
  | .result1 => 0x028

@[simp] theorem regAt_offset (r : Reg) : regAt r.offset = some r := by cases r <;> rfl

theorem regAt_eq_some {off : Nat} {r : Reg} (h : regAt off = some r) : off = r.offset := by
  unfold regAt at h
  split at h <;> cases h <;> rfl

theorem Reg.offset_aligned (r : Reg) : r.offset % 4 = 0 := by cases r <;> rfl

theorem Reg.offset_lt (r : Reg) : r.offset < 0x800 := by cases r <;> decide

/-- Below the BUF window only 32-bit accesses have a behaviour (R73, R78). -/
theorem accessWellFormed_low {size : Nat} {w : Width} {off : Nat} (h : accessWellFormed size w off = true)
    (hlt : off < 0x800) : w = .w32 := by
  simp only [accessWellFormed, accessWidthAllowed, Config.bufOffset, Bool.and_eq_true, Bool.or_eq_true,
    decide_eq_true_eq] at h
  obtain ⟨⟨-, hle | hw⟩, -⟩ := h
  · omega
  · exact hw

/-- The step of a 32-bit write at a register's offset. -/
theorem step_write_offset {s : State} {r : Reg} {v : Word} (h : s.script.head? = some (.write .w32 r.offset v)) :
    step s = .next (s.popTurn.writeReg r v) :=
  step_write_register h r.offset_aligned r.offset_lt (regAt_offset r)

theorem busReadValue_register (s : State) {off : Nat} (hlt : off < 0x800) :
    s.busReadValue .w32 off = (regAt off).elim 0#32 s.readReg := by
  simp only [State.busReadValue, accessReachesBuf_low hlt]
  cases regAt off <;> rfl

/-- The step of a 32-bit read below the BUF window: nothing but the bus value changes (R39, R73). -/
theorem step_read_register {s : State} {off : Nat} (h : s.script.head? = some (.read .w32 off)) (h4 : off % 4 = 0)
    (hlt : off < 0x800) :
    step s = .next { s with busData := some ((regAt off).elim 0#32 s.readReg), script := s.script.tail } := by
  have hread : s.popTurn.busRead .w32 off
      = { s with busData := some (s.popTurn.busReadValue .w32 off), script := s.script.tail } := by
    simp only [State.busRead, accessReachesBuf_low hlt]
    rfl
  have hval : s.popTurn.busReadValue .w32 off = (regAt off).elim 0#32 s.readReg :=
    busReadValue_register s.popTurn hlt
  rw [step_of_head h, ← hval, ← hread]
  exact hostRead_of_wellFormed (accessWellFormed_register h4 hlt)

/-! ### Writes to registers, by the engine's activity -/

/-- While the engine is idle, a register other than CTRL and CMD stores what its rule says (R31, R45, R46). -/
theorem writeReg_idle {s : State} (hb : s.busy = false) {r : Reg} (hctrl : r ≠ .ctrl) (hcmd : r ≠ .cmd) (v : Word) :
    s.writeReg r v = { s with
      arg0 := if r.offset = 0x014 then v else s.arg0
      arg1 := if r.offset = 0x018 then v else s.arg1
      arg2 := if r.offset = 0x01C then v else s.arg2
      codecCfg := if r.offset = 0x020 then storedCodecCfg v else s.codecCfg } := by
  cases r with
  | ctrl => exact absurd rfl hctrl
  | cmd => exact absurd rfl hcmd
  | arg0 | arg1 | arg2 | codecCfg => exact if_neg (by simp [hb])
  | id | params | status | result0 | result1 => rfl

/-- While BUSY, a write to a register other than CTRL changes WIGN only, if anything (R48). -/
theorem writeReg_busy {s : State} (hb : s.busy = true) {r : Reg} (hctrl : r ≠ .ctrl) (v : Word) :
    s.writeReg r v
      = { s with wign := if r.offset ∈ [0x010, 0x014, 0x018, 0x01C, 0x020] then true else s.wign } := by
  cases r with
  | ctrl => exact absurd rfl hctrl
  | cmd | arg0 | arg1 | arg2 | codecCfg => exact if_pos hb
  | id | params | status | result0 | result1 => rfl

/-- While BUSY, a write anywhere but to CTRL changes WIGN only, if anything (R48, R75). -/
theorem busWrite_busy {s : State} (hb : s.busy = true) (w : Width) {off : Nat} (hoff : off ≠ 0x008) (v : Word) :
    s.busWrite w off v = { s with
      wign := if off ∈ [0x010, 0x014, 0x018, 0x01C, 0x020]
            ∨ (0x800 ≤ off ∧ off + w.bytes ≤ 0x800 + s.params.bufSize) then true else s.wign } := by
  unfold State.busWrite
  by_cases hbuf : accessReachesBuf s.params.bufSize w off = true
  · rw [if_pos hbuf, if_pos (.inr ((accessReachesBuf_iff _ _ _).1 hbuf))]
    exact if_pos hb
  · rw [if_neg hbuf]
    rw [accessReachesBuf_iff] at hbuf
    simp only [hbuf, or_false]
    cases hr : regAt off with
    | some r =>
      obtain rfl := regAt_eq_some hr
      exact writeReg_busy hb (by rintro rfl; exact hoff rfl) v
    | none =>
      have hnot : off ∉ [0x010, 0x014, 0x018, 0x01C, 0x020] := by
        intro hmem
        fin_cases hmem <;> cases hr
      rw [if_neg hnot]

theorem writeCtrl_of_not_srst (s : State) {v : Word} (h : v.getLsbD 0 = false) :
    s.writeCtrl v = { s with wign := if v.getLsbD 1 = true then false else s.wign } := by
  rw [State.writeCtrl, if_neg (by rw [h]; decide)]
  split <;> rfl

theorem writeCtrl_of_srst (s : State) {v : Word} (h : v.getLsbD 0 = true) : s.writeCtrl v = s.softReset :=
  if_pos h

@[simp] theorem State.softReset_params (s : State) : s.softReset.params = s.params := by
  unfold State.softReset; split <;> rfl

@[simp] theorem State.softReset_busy (s : State) : s.softReset.busy = false := by
  unfold State.softReset; split <;> rfl

@[simp] theorem State.softReset_ready (s : State) : s.softReset.ready = false := by
  unfold State.softReset; split <;> rfl

/-! ### What registers read as -/

theorem codecOfWord_n (w : Word) : (codecOfWord w).n = w.toNat % 256 := by
  simp [codecOfWord, BitVec.extractLsb'_toNat]

theorem codecOfWord_necc (w : Word) : (codecOfWord w).necc = w.toNat / 256 % 256 := by
  simp [codecOfWord, BitVec.extractLsb'_toNat, Nat.shiftRight_eq_div_pow]

theorem codecOfWord_pad (w : Word) : (codecOfWord w).pad = w.toNat / 65536 % 256 := by
  simp [codecOfWord, BitVec.extractLsb'_toNat, Nat.shiftRight_eq_div_pow]

/-- CFG_OK, from the fields of CODEC_CFG (R42, R46). -/
theorem State.cfgOk_iff (s : State) :
    s.cfgOk = true ↔ 1 ≤ s.codecCfg.toNat / 256 % 256
      ∧ s.codecCfg.toNat / 256 % 256 + s.codecCfg.toNat / 65536 % 256 + 1 ≤ s.codecCfg.toNat % 256 := by
  rw [State.cfgOk, Codec.valid_iff, State.codec, codecOfWord_n, codecOfWord_necc, codecOfWord_pad]

/-- The PARAMS register as a number (R33). -/
theorem State.paramsWord_eq (s : State) :
    s.paramsWord = BitVec.ofNat 32 (s.params.bufSize % 65536 * 65536 + 32 * 256 + 90) := by
  apply BitVec.eq_of_toNat_eq
  have happ : s.paramsWord.toNat
      = (BitVec.ofNat 16 s.params.bufSize ++ BitVec.ofNat 8 32 ++ BitVec.ofNat 8 90).toNat := rfl
  rw [happ]
  simp only [BitVec.toNat_append, BitVec.toNat_ofNat, Nat.reducePow, Nat.reduceMod]
  rw [← Nat.shiftLeft_add_eq_or_of_lt (by decide), ← Nat.shiftLeft_add_eq_or_of_lt (by decide), Nat.shiftLeft_eq,
    Nat.shiftLeft_eq]
  omega

/-- A bit of STATUS is a bit of the fields side by side (R38). -/
theorem State.statusWord_getLsbD (s : State) (i : Nat) :
    s.statusWord.getLsbD i
      = (0#16 ++ s.err.code ++ 0#3 ++ BitVec.ofBool s.wign ++ BitVec.ofBool s.cfgOk ++ BitVec.ofBool s.done
          ++ BitVec.ofBool s.busy ++ BitVec.ofBool s.ready).getLsbD i := rfl

/-- Above the five flags of STATUS stands ERR between reserved zeros (R38). -/
theorem State.statusWord_extractLsb' (s : State) (start len : Nat) :
    s.statusWord.extractLsb' (5 + start) len = (0#16 ++ s.err.code ++ 0#3).extractLsb' start len := by
  ext i hi
  rw [BitVec.getElem_extractLsb', BitVec.getElem_extractLsb', State.statusWord_getLsbD]
  simp only [BitVec.getLsbD_append]
  rw [if_neg (by omega), if_neg (by omega), if_neg (by omega), if_neg (by omega), if_neg (by omega),
    show 5 + start + i - 1 - 1 - 1 - 1 - 1 = start + i by omega]

theorem State.statusWord_flags (s : State) :
    s.statusWord.getLsbD 0 = s.ready ∧ s.statusWord.getLsbD 1 = s.busy ∧ s.statusWord.getLsbD 2 = s.done
      ∧ s.statusWord.getLsbD 3 = s.cfgOk ∧ s.statusWord.getLsbD 4 = s.wign := by
  simp only [State.statusWord_getLsbD, BitVec.getLsbD_append]
  simp

theorem State.statusWord_err (s : State) :
    s.statusWord.extractLsb' 5 3 = 0#3 ∧ s.statusWord.extractLsb' 8 8 = s.err.code
      ∧ s.statusWord.extractLsb' 16 16 = 0#16 := by
  rw [State.statusWord_extractLsb' s 0, State.statusWord_extractLsb' s 3, State.statusWord_extractLsb' s 11]
  cases s.err <;> decide

/-- What a 32-bit read below the BUF window returns, register by register (R31). -/
theorem readReg_at_offset (s : State) (off : Nat) :
    (regAt off).elim 0#32 s.readReg
      = if off = 0x000 then 0x314B4250#32
        else if off = 0x004 then BitVec.ofNat 32 (s.params.bufSize % 65536 * 65536 + 32 * 256 + 90)
        else if off = 0x00C then s.statusWord
        else if off = 0x014 then s.arg0
        else if off = 0x018 then s.arg1
        else if off = 0x01C then s.arg2
        else if off = 0x020 then s.codecCfg
        else if off = 0x024 then s.result0
        else if off = 0x028 then s.result1
        else 0#32 := by
  rw [← State.paramsWord_eq]
  unfold regAt
  split <;> simp_all [State.readReg]

/-! ### Everything one step can do -/

/-- `t` is what a step leaves of `s`: the end of a pending command, an update of one of the named kinds, or the turn taken
off the script and nothing else. -/
inductive StepTo (s : State) : State → Prop
  | unchanged : StepTo s s.popTurn
  | initialise : s.engineNext → s.ready = false → StepTo s s.popTurn.initTables
  | command (m : Memory) (e : ErrCode) (r0 r1 : Word) : s.engineNext → s.ready = true → s.busy = true →
      (Memory.wf s.params.bufSize s.mem → Memory.wf s.params.bufSize m) → StepTo s (s.popTurn.endWith m e r0 r1)
  | read (w : Width) (off : Nat) : StepTo s (s.popTurn.busRead w off)
  | hardReset : s.script.head? = some .hardReset → StepTo s s.popTurn.hardReset
  | softReset (v : Word) : s.script.head? = some (.write .w32 0x008 v) → v.getLsbD 0 = true →
      StepTo s s.popTurn.softReset
  | clearWign (v : Word) : s.script.head? = some (.write .w32 0x008 v) → v.getLsbD 1 = true →
      StepTo s { s.popTurn with wign := false }
  | ignored : StepTo s s.popTurn.ignoreWrite
  | accepted (w : Word) : s.ready = true → StepTo s (s.popTurn.accept w)
  | rejected (w : Word) : s.script.head? = some (.write .w32 0x010 w) → s.busy = false → s.ready = false →
      StepTo s s.popTurn.rejectNotReady
  | operands (a0 a1 a2 : Word) : StepTo s { s.popTurn with arg0 := a0, arg1 := a1, arg2 := a2 }
  | configuration (v : Word) : StepTo s { s.popTurn with codecCfg := storedCodecCfg v }
  | bufWrite (a : Nat) (bs : List Byte) : a + bs.length ≤ s.params.bufSize → StepTo s (s.popTurn.memWrite a bs)

theorem wf_mem_ite {size : Nat} {c : Prop} [Decidable c] {t u : State} (ht : c → Memory.wf size t.mem)
    (hu : Memory.wf size u.mem) : Memory.wf size (if c then t else u).mem := by
  split
  case isTrue hc => exact ht hc
  case isFalse => exact hu

/-- RS_DECODE and VERIFY write back a word as long as the one they read. -/
theorem wf_mem_write_corrected {s : State} {p : Params} {T : Tables} {necc n w : Nat} {r : List Byte}
    (hm : Memory.wf s.params.bufSize s.mem) (hfit : s.spanFits s.offset n = true)
    (hr : rsCorrect p T necc (s.memRead s.offset n) = some (r, w)) :
    Memory.wf s.params.bufSize (Memory.storeAll s.mem s.offset r) := by
  refine Memory.storeAll_wf r hm ?_
  rw [rsCorrect_length hr, State.memRead_length]
  exact (s.spanFits_iff _ _).1 hfit

theorem wf_mem_endDecode {s : State} {p : Params} {T : Tables} {necc n : Nat}
    (hm : Memory.wf s.params.bufSize s.mem) (hfit : s.spanFits s.offset n = true) :
    Memory.wf s.params.bufSize (s.endDecode (rsCorrect p T necc (s.memRead s.offset n))).mem := by
  unfold State.endDecode
  split
  · exact hm
  next hr => exact wf_mem_write_corrected hm hfit hr

theorem wf_mem_endVerify {s : State} {p : Params} {T : Tables} {necc n : Nat}
    (hm : Memory.wf s.params.bufSize s.mem) (hfit : s.spanFits s.offset n = true) :
    Memory.wf s.params.bufSize (s.endVerify (rsCorrect p T necc (s.memRead s.offset n))).mem := by
  unfold State.endVerify
  split
  · exact hm
  next hr => exact wf_mem_ite (fun _ => wf_mem_write_corrected hm hfit hr) hm

theorem wf_mem_write_parity {s : State} (hm : Memory.wf s.params.bufSize s.mem) (hv : s.codec.valid = true)
    (hfit : s.spanFits s.offset s.codec.wordLen = true) (m : List Byte) :
    Memory.wf s.params.bufSize
      (Memory.storeAll s.mem (s.offset + s.codec.msgLen) (rsParity s.params s.tables s.codec.necc m)) := by
  refine Memory.storeAll_wf _ hm ?_
  rw [rsParity_length, Nat.add_assoc, Codec.msgLen_add_necc hv]
  exact (s.spanFits_iff _ _).1 hfit

/-- Every command keeps the canonical form of BUF: it writes inside a span that fits (R50, R246). -/
theorem exec_keeps_wf {i : Instr} {s t : State} (h : exec i s = .next t) (hm : Memory.wf s.params.bufSize s.mem) :
    Memory.wf s.params.bufSize t.mem := by
  cases i with
  | crc16 | polyEval | blockKind => cases h; exact wf_mem_ite (fun _ => hm) hm
  | gfMul => cases h; exact hm
  | gfDiv => cases h; exact wf_mem_ite (fun _ => hm) hm
  | rsEncode =>
    cases h
    exact wf_mem_ite (fun hv => wf_mem_ite (fun hfit => wf_mem_write_parity hm hv hfit _) hm) hm
  | rsDecode =>
    cases h
    exact wf_mem_ite (fun _ => wf_mem_ite (fun hfit => wf_mem_endDecode hm hfit) hm) hm
  | buildData =>
    cases h
    exact wf_mem_ite (fun hfit => wf_mem_ite (fun _ => hm)
      (State.buildBlock_wf _ hm ((s.spanFits_iff _ _).1 hfit))) hm
  | buildSuper =>
    cases h
    exact wf_mem_ite (fun hfit => State.buildBlock_wf _ hm ((s.spanFits_iff _ _).1 hfit)) hm
  | verify =>
    cases h
    exact wf_mem_ite (fun hfit => wf_mem_endVerify hm hfit) hm

/-- The pending word, reserved or not, ends as a command does and keeps the canonical form of BUF. -/
theorem runPending_ends (s : State) : ∃ m e r0 r1, runPending s = .next (s.endWith m e r0 r1)
    ∧ (Memory.wf s.params.bufSize s.mem → Memory.wf s.params.bufSize m) := by
  unfold runPending
  split
  next i _ =>
    obtain ⟨t, hexec, m, e, r0, r1, rfl⟩ := exec_commandEnd i s
    exact ⟨m, e, r0, r1, hexec, exec_keeps_wf hexec⟩
  · exact ⟨s.mem, .eBadOpcode, 0#32, 0#32, rfl, id⟩

theorem StepTo.of_engineTurn {s t : State} (hn : s.engineNext) (h : engineTurn s.popTurn = .next t) : StepTo s t := by
  rcases engineTurn_cases s.popTurn with ⟨hr, he⟩ | ⟨hr, hb, -⟩ | ⟨-, -, he⟩
  · rw [he] at h
    cases h
    exact .initialise hn hr
  · obtain ⟨m, e, r0, r1, he, hwf⟩ := runPending_ends s.popTurn
    rw [engineTurn_pending hr hb, he] at h
    cases h
    exact .command m e r0 r1 hn hr hb hwf
  · rw [he] at h
    cases h
    exact .unchanged

theorem StepTo.of_busWrite {s : State} {w : Width} {off : Nat} {v : Word}
    (hhead : s.script.head? = some (.write w off v)) (hwf : accessWellFormed s.params.bufSize w off = true) :
    StepTo s (s.popTurn.busWrite w off v) := by
  have hw : off < 0x800 → w = .w32 := accessWellFormed_low hwf
  rcases busWrite_cases s.popTurn w off v with h | ⟨h, hb⟩ | ⟨rfl, hv, h⟩ | ⟨rfl, hv, h⟩ | ⟨hb, hr, h⟩ |
    ⟨rfl, hb, hr, h⟩ | ⟨hb, h⟩ | ⟨hb, h⟩ | ⟨hb, h⟩ | ⟨hb, h⟩ | ⟨hb, hbuf, h⟩ <;> rw [h]
  · exact .unchanged
  · exact .ignored
  · obtain rfl := hw (by decide)
    exact .softReset v hhead hv
  · obtain rfl := hw (by decide)
    exact .clearWign v hhead hv
  · exact .accepted v hr
  · obtain rfl := hw (by decide)
    exact .rejected v hhead hb hr
  · exact .operands v _ _
  · exact .operands _ v _
  · exact .operands _ _ v
  · exact .configuration v
  · refine .bufWrite _ _ ?_
    obtain ⟨hlo, hhi⟩ := (accessReachesBuf_iff _ _ _).1 hbuf
    simp only [State.popTurn_params] at hhi
    simp only [List.length_map, List.length_range, Config.bufOffset]
    omega

/-- A step that answers a next state does one of the things listed. -/
theorem StepTo.of_step {s t : State} (h : step s = .next t) : StepTo s t := by
  rcases step_turn_cases s with ⟨hn, hs⟩ | ⟨w, off, -, hs⟩ | ⟨w, off, v, hhead, hs⟩ | ⟨hhead, hs⟩ <;> rw [hs] at h
  · exact .of_engineTurn hn h
  · obtain ⟨-, rfl⟩ := guardAccess_next h
    exact .read w off
  · obtain ⟨hwf, rfl⟩ := guardAccess_next h
    exact .of_busWrite hhead hwf
  · cases h
    exact .hardReset hhead

/-! ### The invariant, operation by operation -/

/-- The reserved bits of CODEC_CFG are 0 after a reset (R46). -/
theorem codecCfgReset_reserved : Config.codecCfgReset.extractLsb' 24 8 = 0#8 := by decide

namespace State.Inv

variable {s : State}

theorem popTurn (h : s.Inv) : s.popTurn.Inv := { h with }

theorem initTables (h : s.Inv) : s.initTables.Inv :=
  { h with busyOnlyReady := fun _ => rfl, readyTables := fun _ => rfl, notReadyTables := nofun }

theorem endWith (h : s.Inv) {m : Memory} (hm : Memory.wf s.params.bufSize m) (e : ErrCode) (r0 r1 : Word) :
    (s.endWith m e r0 r1).Inv :=
  { h with notBusyAndDone := nofun, busyOnlyReady := nofun, bufCanonical := hm }

theorem busRead (h : s.Inv) (w : Width) (off : Nat) : (s.busRead w off).Inv :=
  { h with drawsFresh := Nat.le_add_right_of_le h.drawsFresh }

theorem resetRegisters (h : s.Inv) : s.resetRegisters.Inv :=
  { h with
    notBusyAndDone := nofun, busyOnlyReady := nofun, readyTables := nofun, notReadyTables := fun _ => rfl
    cfgReserved := codecCfgReset_reserved }

theorem hardReset (h : s.Inv) : s.hardReset.Inv :=
  { h.resetRegisters with bufCanonical := Memory.nil_wf _, drawsFresh := Nat.le_refl _ }

theorem abortPending (h : s.Inv) : s.abortPending.Inv :=
  { h with
    bufCanonical := Memory.storeDraws_wf _ h.bufCanonical fun _ ha => List.mem_range.1 (List.mem_filter.1 ha).1
    drawsFresh := Nat.le_add_right_of_le h.drawsFresh }

theorem softReset (h : s.Inv) : s.softReset.Inv := by
  unfold State.softReset
  split
  · exact h.abortPending.resetRegisters
  · exact h.resetRegisters

theorem accept (h : s.Inv) (hr : s.ready = true) (w : Word) : (s.accept w).Inv :=
  { h with notBusyAndDone := nofun, busyOnlyReady := fun _ => hr }

theorem rejectNotReady (h : s.Inv) (hb : s.busy = false) : s.rejectNotReady.Inv :=
  { h with notBusyAndDone := by simp [hb] }

theorem memWrite (h : s.Inv) {a : Nat} {bs : List Byte} (hfit : a + bs.length ≤ s.params.bufSize) :
    (s.memWrite a bs).Inv :=
  { h with bufCanonical := Memory.storeAll_wf bs h.bufCanonical hfit }

end State.Inv

/-- Bits 31:24 of CODEC_CFG are never stored (R46). -/
theorem storedCodecCfg_reserved (v : Word) : (storedCodecCfg v).extractLsb' 24 8 = 0#8 := by
  have hmask : (0x00FFFFFF#32).extractLsb' 24 8 = 0#8 := by decide
  rw [storedCodecCfg, BitVec.extractLsb'_and, hmask, BitVec.and_zero]

theorem pbRef_wellFormed : Params.pbRef.wellFormed = true := by decide +kernel

theorem Config.params_wellFormed : Config.params.wellFormed = true := by
  unfold Config.params
  split
  case isTrue h => exact h
  case isFalse => exact pbRef_wellFormed

/-- The BUF size of R16 meets its bounds, whatever the other parameters are. -/
theorem wellFormed_with_bufSize {p : Params} (h : p.wellFormed = true) :
    { p with bufSize := Config.bufSize }.wellFormed = true := by
  simp only [Params.wellFormed, Bool.and_eq_true] at h ⊢
  obtain ⟨⟨hfield, -⟩, hbase⟩ := h
  have hsize : { p with bufSize := Config.bufSize }.bufSizeOk = true := by
    simp [Params.bufSizeOk, Config.blockSize, Config.bufSize]
  exact ⟨⟨hfield, hsize⟩, hbase⟩

/-! ### The statements about every step -/

/-- Settles O29: each of the updates a step can make keeps the invariant. -/
theorem everyStepKeepsTheInvariant : Obligations.EveryStepKeepsTheInvariant := by
  unfold Obligations.EveryStepKeepsTheInvariant
  intro s t hinv h
  have hpop : s.popTurn.Inv := hinv.popTurn
  cases StepTo.of_step h with
  | unchanged => exact hpop
  | initialise => exact hpop.initTables
  | command m e r0 r1 _ _ _ hwf => exact hpop.endWith (hwf hinv.bufCanonical) e r0 r1
  | read w off => exact hpop.busRead w off
  | hardReset => exact hpop.hardReset
  | softReset => exact hpop.softReset
  | clearWign => exact { hpop with }
  | ignored => exact { hpop with }
  | accepted w hr => exact hpop.accept hr w
  | rejected _ _ hb => exact hpop.rejectNotReady hb
  | operands => exact { hpop with }
  | configuration v => exact { hpop with cfgReserved := storedCodecCfg_reserved v }
  | bufWrite a bs hfit => exact hpop.memWrite hfit

/-- Settles O30: of all the updates a step can make, only the resets and WIGN_CLR write 0 to WIGN. -/
theorem wignIsStickyUntilCleared : Obligations.WignIsStickyUntilCleared := by
  unfold Obligations.WignIsStickyUntilCleared
  intro s t h hset hclear
  have changed : t.wign ≠ s.wign := by simp [hset, hclear]
  cases StepTo.of_step h with
  | hardReset hhead => exact .inl hhead
  | softReset v hhead hv => exact .inr ⟨v, hhead, .inl hv⟩
  | clearWign v hhead hv => exact .inr ⟨v, hhead, .inr hv⟩
  | ignored => cases hclear
  | _ => exact absurd rfl changed

/-- Settles O31: initialisation and the resets are the only updates of READY and the tables. -/
theorem tablesNeverChangeAfterInitialisation : Obligations.TablesNeverChangeAfterInitialisation := by
  unfold Obligations.TablesNeverChangeAfterInitialisation
  intro s t h
  cases StepTo.of_step h with
  | initialise hn hr => exact ⟨rfl, .inr (.inl ⟨hr, hn, rfl, rfl⟩)⟩
  | hardReset hhead => exact ⟨rfl, .inr (.inr (.inl hhead))⟩
  | softReset v hhead hv => exact ⟨State.softReset_params _, .inr (.inr (.inr ⟨v, hhead, hv⟩))⟩
  | _ => exact ⟨rfl, .inl ⟨rfl, rfl⟩⟩

/-- Settles O32: the end of a command, a rejection and the resets are the only updates of ERR and the results. -/
theorem resultsChangeOnlyAtCommandEnds : Obligations.ResultsChangeOnlyAtCommandEnds := by
  unfold Obligations.ResultsChangeOnlyAtCommandEnds
  intro s t h hchange
  have unchanged_absurd : ¬ (t.result0 = s.result0 ∧ t.result1 = s.result1 ∧ t.err = s.err) := by tauto
  cases StepTo.of_step h with
  | command m e r0 r1 hn hr hb => exact .inl ⟨hn, hr, hb, rfl, rfl⟩
  | rejected w hhead _ hr => exact .inr (.inl ⟨hr, w, hhead, rfl⟩)
  | hardReset hhead => exact .inr (.inr (.inl hhead))
  | softReset v hhead hv => exact .inr (.inr (.inr ⟨v, hhead, hv⟩))
  | _ => exact absurd ⟨rfl, rfl, rfl⟩ unchanged_absurd

/-! ### The statements about host accesses -/

/-- Settles O9: what a busy write may change, and for CTRL the two effects of its bits. -/
theorem busyWritesAreIgnored : Obligations.BusyWritesAreIgnored := by
  unfold Obligations.BusyWritesAreIgnored
  intro s w off v hb hhead hwf
  refine ⟨fun hoff => ?_, ?_, ?_⟩
  · rw [step_of_head hhead]
    refine (hostWrite_of_wellFormed (s := s.popTurn) v hwf).trans ?_
    rw [busWrite_busy (s := s.popTurn) hb w hoff v]
    rfl
  · rintro rfl hv
    obtain rfl := accessWellFormed_low hwf (by decide)
    refine ⟨s.popTurn.softReset, ?_, State.softReset_busy _, State.softReset_ready _⟩
    rw [step_write_offset (r := .ctrl) hhead]
    exact congrArg _ (writeCtrl_of_srst _ hv)
  · rintro rfl h0 h1
    obtain rfl := accessWellFormed_low hwf (by decide)
    rw [step_write_offset (r := .ctrl) hhead]
    refine congrArg _ ((writeCtrl_of_not_srst _ h0).trans ?_)
    rw [if_pos h1]
    rfl

/-- Settles O16: a STATUS read is a register read, and its value holds each field in its place. -/
theorem statusReadReturnsFlags : Obligations.StatusReadReturnsFlags := by
  unfold Obligations.StatusReadReturnsFlags
  refine ⟨⟨rfl, rfl, rfl, rfl, rfl, rfl, rfl, rfl, fun e => by cases e <;> decide⟩, fun s hhead => ?_⟩
  obtain ⟨hready, hbusy, hdone, hcfg, hwign⟩ := s.statusWord_flags
  obtain ⟨hlow, herr, hhigh⟩ := s.statusWord_err
  refine ⟨s.statusWord, step_read_register hhead rfl (by decide), hready, hbusy, hdone, ?_, hwign, hlow, herr, hhigh⟩
  rw [hcfg]
  exact s.cfgOk_iff

/-- Settles O17: a register read takes no draw, and returns what the register at the offset reads as. -/
theorem registerReadsReturnTheirValues : Obligations.RegisterReadsReturnTheirValues := by
  unfold Obligations.RegisterReadsReturnTheirValues
  intro s off hhead h4 hlt
  rw [step_read_register hhead h4 hlt, readReg_at_offset]

/-- Each of the nine offsets that O18 names is that of a register. -/
theorem exists_plain_register {off : Nat}
    (h : off ∈ [0x000, 0x004, 0x00C, 0x014, 0x018, 0x01C, 0x020, 0x024, 0x028]) :
    ∃ r : Reg, r ≠ .ctrl ∧ r ≠ .cmd ∧ off = r.offset := by
  fin_cases h
  · exact ⟨.id, nofun, nofun, rfl⟩
  · exact ⟨.params, nofun, nofun, rfl⟩
  · exact ⟨.status, nofun, nofun, rfl⟩
  · exact ⟨.arg0, nofun, nofun, rfl⟩
  · exact ⟨.arg1, nofun, nofun, rfl⟩
  · exact ⟨.arg2, nofun, nofun, rfl⟩
  · exact ⟨.codecCfg, nofun, nofun, rfl⟩
  · exact ⟨.result0, nofun, nofun, rfl⟩
  · exact ⟨.result1, nofun, nofun, rfl⟩

/-- Settles O18: the nine offsets are those of the registers other than CTRL and CMD. -/
theorem idleRegisterWritesAreStored : Obligations.IdleRegisterWritesAreStored := by
  unfold Obligations.IdleRegisterWritesAreStored
  intro s off v hhead hb hmem
  obtain ⟨r, hctrl, hcmd, rfl⟩ := exists_plain_register hmem
  rw [step_write_offset hhead, writeReg_idle (s := s.popTurn) hb hctrl hcmd]
  rfl

/-- Settles O4: without SRST, CTRL has WIGN_CLR only. -/
theorem ctrlWithoutResetChangesWignOnly : Obligations.CtrlWithoutResetChangesWignOnly := by
  unfold Obligations.CtrlWithoutResetChangesWignOnly
  intro s v hhead hv
  rw [step_write_offset (r := .ctrl) hhead]
  exact congrArg _ (writeCtrl_of_not_srst s.popTurn hv)

/-- Settles O7: neither the BUSY nor the READY check of CMD stops the word. -/
theorem cmdWriteIsAccepted : Obligations.CmdWriteIsAccepted := by
  unfold Obligations.CmdWriteIsAccepted
  intro s w hhead hr hb
  rw [step_write_offset (r := .cmd) hhead]
  have hcmd : s.popTurn.writeCmd w = s.popTurn.accept w := by simp [State.writeCmd, hr, hb]
  exact congrArg _ hcmd

/-! ### The statements about the engine and reset -/

/-- Settles O11: the engine's turn with a pending word that decodes is that command's. -/
theorem stepRunsThePendingCommand : Obligations.StepRunsThePendingCommand := by
  unfold Obligations.StepRunsThePendingCommand
  intro s i hr hb hn hdec
  have hpop : decodeWord s.popTurn.pending = .ok i := hdec
  rw [step_of_engineNext hn, engineTurn_pending (s := s.popTurn) hr hb, runPending, hpop]
  rfl

/-- Settles O28: legal parameters, no tables, and a BUF of draws already counted. -/
theorem invariantHoldsAtReset : Obligations.InvariantHoldsAtReset where
  paramsOk := wellFormed_with_bufSize Config.params_wellFormed
  notBusyAndDone := nofun
  busyOnlyReady := nofun
  readyTables := nofun
  notReadyTables _ := rfl
  cfgReserved := codecCfgReset_reserved
  bufCanonical := State.reset_mem_wf
  drawsFresh := by decide

/-- Settles O1: the draw of a BUF byte is the one at its own offset. -/
theorem hardResetValues : Obligations.HardResetValues := by
  unfold Obligations.HardResetValues
  refine ⟨rfl, rfl, rfl, rfl, rfl, rfl, rfl, rfl, rfl, rfl, rfl, rfl, rfl, rfl, rfl, rfl, rfl,
    fun a => State.reset.bufDraw + a, fun a b h => Nat.add_left_cancel h, fun a _ => rfl⟩

end Sys2Proof.Machine

/-! PROOFS. The statements about the host's accesses: which of them stop, what reads and writes of the window do, and
what a pending command sees of them. -/

namespace Sys2Proof.Machine

/-! ### The guard of a host access -/

theorem accessInWindow_iff (off : Nat) : accessInWindow off = true ↔ off < 0x1000 := decide_eq_true_iff

theorem accessAligned_iff (w : Width) (off : Nat) : accessAligned w off = true ↔ off % w.bytes = 0 := decide_eq_true_iff

theorem accessWidthAllowed_iff (w : Width) (off : Nat) :
    accessWidthAllowed w off = true ↔ 0x800 ≤ off ∨ w = .w32 := by
  simp [accessWidthAllowed, Config.bufOffset]

theorem accessWithinBufEnd_iff (size : Nat) (w : Width) (off : Nat) :
    accessWithinBufEnd size w off = true ↔ off + w.bytes ≤ 0x800 + size ∨ 0x800 + size ≤ off := by
  simp [accessWithinBufEnd, Config.bufOffset]

theorem accessWellFormed_iff (size : Nat) (w : Width) (off : Nat) :
    accessWellFormed size w off = true ↔ off < 0x1000 ∧ off % w.bytes = 0 ∧ (0x800 ≤ off ∨ w = .w32)
      ∧ (off + w.bytes ≤ 0x800 + size ∨ 0x800 + size ≤ off) := by
  simp only [accessWellFormed, Bool.and_eq_true, accessInWindow_iff, accessAligned_iff, accessWidthAllowed_iff,
    accessWithinBufEnd_iff, and_assoc]

/-- The checks of the guard in their order, as conditions on the numbers (R70, R78). -/
theorem guardAccess_eq (size : Nat) (w : Width) (off : Nat) (t : State) :
    guardAccess size w off t
      = if ¬ off < 0x1000 then .fault .outsideWindow
        else if ¬ off % w.bytes = 0 then .refused .misaligned
        else if ¬ (0x800 ≤ off ∨ w = .w32) then .refused .subwordRegister
        else if ¬ (off + w.bytes ≤ 0x800 + size ∨ 0x800 + size ≤ off) then .refused .crossesBufEnd
        else .next t := by
  simp only [guardAccess, Bool.not_eq_true', Bool.eq_false_iff, ne_eq, accessInWindow_iff, accessAligned_iff,
    accessWidthAllowed_iff, accessWithinBufEnd_iff]

/-- A turn of the host, a read or a write, goes through the guard (R70, R78). -/
theorem step_access_guarded {s : State} {w : Width} {off : Nat} {v : Word}
    (h : s.script.head? = some (.read w off) ∨ s.script.head? = some (.write w off v)) :
    ∃ t, step s = guardAccess s.params.bufSize w off t := by
  rcases h with h | h
  · exact ⟨s.popTurn.busRead w off, step_of_head h⟩
  · exact ⟨s.popTurn.busWrite w off v, step_of_head h⟩

/-- Settles O20: each kind of access fails the guard's check for it, those before it being met. -/
theorem illegalAccessesAreRefused : Obligations.IllegalAccessesAreRefused := by
  unfold Obligations.IllegalAccessesAreRefused
  intro s w off v h
  obtain ⟨t, hstep⟩ := step_access_guarded h
  rw [hstep, guardAccess_eq]
  refine ⟨fun hwin hal => ?_, fun hlow hal hw => ?_, fun hwin hal hbuf hin hcross => ?_⟩
  · rw [if_neg (by omega), if_pos hal]
  · rw [if_neg (by omega), if_neg (not_not.2 hal), if_pos (not_or.2 ⟨by omega, hw⟩)]
  · rw [if_neg (by omega), if_neg (not_not.2 hal), if_neg (not_not.2 (.inl hbuf)), if_pos (by omega)]

/-- Settles O21: the window is the guard's first check. -/
theorem accessesOutsideTheWindowFault : Obligations.AccessesOutsideTheWindowFault := by
  unfold Obligations.AccessesOutsideTheWindowFault
  intro s w off v h hout
  obtain ⟨t, hstep⟩ := step_access_guarded h
  rw [hstep, guardAccess_eq, if_pos (by omega)]

/-- Settles O27: the offset is the distance from PBK_BASE, inside the window only. -/
theorem hostAddressesMapToWindowOffsets : Obligations.HostAddressesMapToWindowOffsets := by
  unfold Obligations.HostAddressesMapToWindowOffsets
  intro p addr off
  unfold windowOffset Config.windowSize
  split
  case isTrue h => rw [Option.some.injEq]; omega
  case isFalse h => simp only [reduceCtorEq, false_iff]; omega

/-! ### The step of a legal access -/

theorem step_read_of_wellFormed {s : State} {w : Width} {off : Nat} (h : s.script.head? = some (.read w off))
    (hwf : accessWellFormed s.params.bufSize w off = true) : step s = .next (s.popTurn.busRead w off) :=
  (step_of_head h).trans (hostRead_of_wellFormed (s := s.popTurn) hwf)

theorem step_write_of_wellFormed {s : State} {w : Width} {off : Nat} {v : Word}
    (h : s.script.head? = some (.write w off v)) (hwf : accessWellFormed s.params.bufSize w off = true) :
    step s = .next (s.popTurn.busWrite w off v) :=
  (step_of_head h).trans (hostWrite_of_wellFormed (s := s.popTurn) v hwf)

theorem State.drawsTaken_idle {s : State} (hb : s.busy = false) (w : Width) (a : Nat) : s.drawsTaken w a = 0 := by
  simp [State.drawsTaken, hb]

theorem State.busRead_draws_idle {s : State} (hb : s.busy = false) (w : Width) (off : Nat) :
    (s.busRead w off).draws = s.draws := by
  simp [State.busRead, State.drawsTaken_idle hb]

/-- Settles O19: a legal read is `State.busRead`, which updates two fields. -/
theorem readsHaveNoSideEffect : Obligations.ReadsHaveNoSideEffect := by
  unfold Obligations.ReadsHaveNoSideEffect
  intro s w off h hwf
  exact ⟨s.popTurn.busRead w off, step_read_of_wellFormed h hwf, rfl, Option.some_ne_none _, Nat.le_add_right _ _,
    fun hb => State.busRead_draws_idle (s := s.popTurn) hb w off⟩

/-! ### Reserved offsets -/

/-- Above the eleven registers there is none (R31, R71). -/
theorem regAt_of_le {off : Nat} (h : 0x02C ≤ off) : regAt off = none := by
  rw [Option.eq_none_iff_forall_ne_some]
  intro r hr
  obtain rfl := regAt_eq_some hr
  revert h
  cases r <;> decide

theorem width_bytes_pos (w : Width) : 0 < w.bytes := by cases w <;> decide

theorem width_bytes_le (w : Width) : w.bytes ≤ 4 := by cases w <;> decide

/-- At an offset with neither a register nor BUF behind it, a read changes nothing but the bus value, which is 0. -/
theorem busRead_reserved {s : State} {w : Width} {off : Nat} (hbuf : accessReachesBuf s.params.bufSize w off = false)
    (hreg : regAt off = none) : s.busRead w off = { s with busData := some 0#32 } := by
  simp [State.busRead, State.busReadValue, hbuf, hreg]

theorem busWrite_reserved {s : State} {w : Width} {off : Nat} (hbuf : accessReachesBuf s.params.bufSize w off = false)
    (hreg : regAt off = none) (v : Word) : s.busWrite w off v = s := by
  simp [State.busWrite, hbuf, hreg]

/-- Settles O22: a reserved offset has neither a register nor BUF behind it. -/
theorem reservedOffsetsReadZeroIgnoreWrites : Obligations.ReservedOffsetsReadZeroIgnoreWrites := by
  unfold Obligations.ReservedOffsetsReadZeroIgnoreWrites
  intro s w off v hwin hal hres
  have hpos : 0 < w.bytes := width_bytes_pos w
  have hwf : accessWellFormed s.params.bufSize w off = true := by
    rw [accessWellFormed_iff]
    rcases hres with ⟨-, hlow, rfl⟩ | hhigh
    · exact ⟨hwin, hal, .inr rfl, .inl (by simp only [Width.bytes] at hal ⊢; omega)⟩
    · exact ⟨hwin, hal, .inl (by omega), .inr hhigh⟩
  have hreg : regAt off = none := regAt_of_le (by omega)
  have hbuf : accessReachesBuf s.popTurn.params.bufSize w off = false := by
    rw [Bool.eq_false_iff, ne_eq, accessReachesBuf_iff, State.popTurn_params]
    omega
  refine ⟨fun hhead => ?_, fun hhead => ?_⟩
  · rw [step_read_of_wellFormed hhead hwf, busRead_reserved hbuf hreg]
    rfl
  · rw [step_write_of_wellFormed hhead hwf, busWrite_reserved hbuf hreg]
    rfl

/-! ### Bytes of a bus value -/

theorem ofLE_cons_getLsbD (b : Byte) (bs : List Byte) (k : Nat) :
    (ofLE (b :: bs)).getLsbD k = if k < 8 then b.getLsbD k else (decide (k < 32) && (ofLE bs).getLsbD (k - 8)) := by
  rw [ofLE, BitVec.getLsbD_or, BitVec.getLsbD_setWidth, BitVec.getLsbD_shiftLeft]
  by_cases hk : k < 8
  · simp [hk, show k < 32 by omega]
  · simp [hk, BitVec.getLsbD_of_ge b k (by omega)]

/-- Byte i of a little-endian number is entry i of its bytes, and 0 where they end (R18, R72). -/
theorem extractLsb'_ofLE : ∀ (bs : List Byte) {i : Nat}, i < 4 →
    (ofLE bs).extractLsb' (8 * i) 8 = bs.getD i 0#8
  | [], i, _ => by simp [ofLE]
  | b :: bs, 0, _ => by
    ext j hj
    simp [BitVec.getElem_extractLsb', ofLE_cons_getLsbD, hj]
  | b :: bs, i + 1, hi => by
    rw [List.getD_cons_succ, ← extractLsb'_ofLE bs (by omega : i < 4)]
    ext j hj
    rw [BitVec.getElem_extractLsb', BitVec.getElem_extractLsb', ofLE_cons_getLsbD, if_neg (by omega),
      show 8 * (i + 1) + j - 8 = 8 * i + j by omega, decide_eq_true (by omega : 8 * (i + 1) + j < 32), Bool.true_and]

theorem ofLE_singleton (b : Byte) : ofLE [b] = b.setWidth 32 := by simp [ofLE]

/-- Two adjacent bytes of a word, read as a little-endian number, are its 16 bits there (R76). -/
theorem ofLE_adjacent_bytes (v : Word) (k : Nat) :
    ofLE [v.extractLsb' k 8, v.extractLsb' (k + 8) 8] = (v.extractLsb' k 16).setWidth 32 := by
  apply BitVec.eq_of_getLsbD_eq
  intro j hj
  rw [ofLE_cons_getLsbD, ofLE_singleton, BitVec.getLsbD_setWidth, BitVec.getLsbD_setWidth, BitVec.getLsbD_extractLsb',
    BitVec.getLsbD_extractLsb', BitVec.getLsbD_extractLsb']
  by_cases hlow : j < 8
  · simp [hlow, hj, show j < 16 by omega]
  · rw [if_neg hlow, show k + 8 + (j - 8) = k + j by omega]
    by_cases hhigh : j < 16
    · simp [hhigh, hj, show j - 8 < 8 by omega, show j - 8 < 32 by omega]
    · simp [hhigh, show ¬ j - 8 < 8 by omega]

/-! ### The BUF window -/

/-- The bytes a host read of BUF returns, first one first (R72, R74). -/
def State.readLanes (s : State) (w : Width) (a : Nat) : List Byte := (List.range w.bytes).map (s.readLane a)

theorem State.readLanes_getD_lt (s : State) {w : Width} {a i : Nat} (h : i < w.bytes) :
    (s.readLanes w a).getD i 0#8 = s.readLane a i := by
  simp [State.readLanes, h]

theorem State.readLanes_getD_ge (s : State) {w : Width} {a i : Nat} (h : w.bytes ≤ i) :
    (s.readLanes w a).getD i 0#8 = 0#8 :=
  List.getD_eq_default _ _ (by simpa [State.readLanes] using h)

theorem State.readLane_idle {s : State} (hb : s.busy = false) (a i : Nat) : s.readLane a i = s.bufByte (a + i) := by
  simp [State.readLane, hb]

theorem State.readLane_inRegion {s : State} (hb : s.busy = true) {a i : Nat} (h : s.inWriteRegion (a + i) = true) :
    s.readLane a i = Config.freeByte (s.draws + i) := by
  simp [State.readLane, hb, h]

theorem State.readLane_outsideRegion {s : State} {a i : Nat} (h : s.inWriteRegion (a + i) = false) :
    s.readLane a i = s.bufByte (a + i) := by
  simp [State.readLane, h]

/-- A busy read that touches the write region takes a draw for every byte of the access (R74). -/
theorem State.drawsTaken_inRegion {s : State} (hb : s.busy = true) {w : Width} {a i : Nat} (hi : i < w.bytes)
    (h : s.inWriteRegion (a + i) = true) : s.drawsTaken w a = w.bytes := by
  refine if_pos ?_
  rw [hb, Bool.true_and, List.any_eq_true]
  exact ⟨i, List.mem_range.2 hi, h⟩

theorem State.readLanes_idle {s : State} (hb : s.busy = false) (w : Width) (a : Nat) :
    s.readLanes w a = s.memRead a w.bytes :=
  List.map_congr_left fun i _ => s.readLane_idle hb a i

/-- The step of a read of the BUF window, whether the engine is idle or not (R72, R74). -/
theorem step_read_buf {s : State} {w : Width} {a : Nat} (h : s.script.head? = some (.read w (0x800 + a)))
    (hal : a % w.bytes = 0) (hin : a + w.bytes ≤ s.params.bufSize) (hwin : 0x800 + a < 0x1000) :
    step s = .next { s with
      busData := some (ofLE (s.readLanes w a)), draws := s.draws + s.drawsTaken w a, script := s.script.tail } := by
  have hbuf : accessReachesBuf s.popTurn.params.bufSize w (0x800 + a) = true := accessReachesBuf_buf hin
  rw [step_read_of_wellFormed h (accessWellFormed_buf hal hin hwin), State.busRead, State.busReadValue, if_pos hbuf,
    if_pos hbuf, Config.bufOffset, Nat.add_sub_cancel_left]
  rfl

theorem step_read_buf_idle {s : State} {w : Width} {a : Nat} (hb : s.busy = false)
    (h : s.script.head? = some (.read w (0x800 + a)))
    (hal : a % w.bytes = 0) (hin : a + w.bytes ≤ s.params.bufSize) (hwin : 0x800 + a < 0x1000) :
    step s = .next { s with busData := some (ofLE (s.memRead a w.bytes)), script := s.script.tail } := by
  rw [step_read_buf h hal hin hwin, s.readLanes_idle hb, s.drawsTaken_idle hb, Nat.add_zero]

/-- The low bytes of a written value, low byte first (R72). -/
def writtenBytes (w : Width) (v : Word) : List Byte := (List.range w.bytes).map (byteLane v)

@[simp] theorem writtenBytes_length (w : Width) (v : Word) : (writtenBytes w v).length = w.bytes := by
  simp [writtenBytes]

theorem writtenBytes_getD {w : Width} {i : Nat} (h : i < w.bytes) (v : Word) :
    (writtenBytes w v).getD i 0#8 = v.extractLsb' (8 * i) 8 := by
  simp [writtenBytes, h, byteLane]

theorem step_write_buf_idle {s : State} {w : Width} {a : Nat} {v : Word} (hb : s.busy = false)
    (h : s.script.head? = some (.write w (0x800 + a) v))
    (hal : a % w.bytes = 0) (hin : a + w.bytes ≤ s.params.bufSize) (hwin : 0x800 + a < 0x1000) :
    step s = .next (s.popTurn.memWrite a (writtenBytes w v)) := by
  have hbuf : accessReachesBuf s.popTurn.params.bufSize w (0x800 + a) = true := accessReachesBuf_buf hin
  rw [step_write_of_wellFormed h (accessWellFormed_buf hal hin hwin), State.busWrite, if_pos hbuf, State.writeBuf,
    if_neg (by simp [hb]), Config.bufOffset, Nat.add_sub_cancel_left]
  rfl

theorem bufByte_memWrite_writtenBytes (s : State) {w : Width} {i : Nat} (hi : i < w.bytes) (a : Nat) (v : Word) :
    (s.memWrite a (writtenBytes w v)).bufByte (a + i) = v.extractLsb' (8 * i) 8 := by
  rw [State.bufByte_memWrite, writtenBytes_length, if_pos (by omega), Nat.add_sub_cancel_left, writtenBytes_getD hi]

/-- Settles O23: an idle write is `State.memWrite` of the value's bytes, an idle read the number `State.memRead` spells. -/
theorem bufWindowIsLittleEndian : Obligations.BufWindowIsLittleEndian := by
  unfold Obligations.BufWindowIsLittleEndian
  intro s w a v hb hal hin hwin
  refine ⟨fun hhead => ?_, fun hhead => ?_⟩
  · refine ⟨_, step_write_buf_idle hb hhead hal hin hwin, fun i hi => bufByte_memWrite_writtenBytes _ hi a v, ?_, rfl⟩
    intro x hx
    exact State.bufByte_memWrite_outside s.popTurn (by rwa [writtenBytes_length])
  · refine ⟨_, step_read_buf_idle hb hhead hal hin hwin, fun i hi => ?_, fun i hi hw => ?_⟩
    · have h4 : i < 4 := lt_of_lt_of_le hi (width_bytes_le w)
      rw [extractLsb'_ofLE _ h4, State.memRead_getD s hi]
    · rw [extractLsb'_ofLE _ hi, List.getD_eq_default _ _ (by simpa using hw)]

/-- A read inside a 32-bit word that the host has just written returns the value's bytes there (R76, R77). -/
theorem read_after_word_write {s : State} {w : Width} {a b : Nat} {v : Word} {rest : List Turn} (hb : s.busy = false)
    (hal : a % 4 = 0) (hin : a + 4 ≤ s.params.bufSize) (hwin : 0x800 + a < 0x1000)
    (hbal : (a + b) % w.bytes = 0) (hfit : b + w.bytes ≤ 4)
    (hs : s.script = .write .w32 (0x800 + a) v :: .read w (0x800 + a + b) :: rest) :
    ∃ t u, step s = .next t ∧ step t = .next u
      ∧ u.busData = some (ofLE ((List.range w.bytes).map fun j => byteLane v (b + j))) := by
  have hpos := width_bytes_pos w
  have hread : (s.popTurn.memWrite a (writtenBytes .w32 v)).memRead (a + b) w.bytes
      = (List.range w.bytes).map fun j => byteLane v (b + j) := by
    refine List.map_congr_left fun j hj => ?_
    have hlane : b + j < Width.bytes .w32 := lt_of_lt_of_le (Nat.add_lt_add_left (List.mem_range.1 hj) b) hfit
    rw [Nat.add_assoc, bufByte_memWrite_writtenBytes _ hlane, byteLane]
  rw [← hread]
  exact ⟨_, _, step_write_buf_idle hb (by rw [hs]; rfl) hal hin hwin,
    step_read_buf_idle (a := a + b) hb (by simp [hs, Nat.add_assoc]) hbal
      (show a + b + w.bytes ≤ s.params.bufSize by omega) (by omega), rfl⟩

/-- Settles O24: one byte of the written word, and two adjacent ones. -/
theorem mixedWidthReadsSeeTheWord : Obligations.MixedWidthReadsSeeTheWord := by
  unfold Obligations.MixedWidthReadsSeeTheWord
  intro s a i v rest hb hal hi hin hwin
  refine ⟨fun hs => ?_, fun hs => ?_⟩
  · obtain ⟨t, u, hwrite, hread, hdata⟩ := read_after_word_write hb hal hin hwin (Nat.mod_one _) hi hs
    exact ⟨t, u, hwrite, hread, hdata.trans (congrArg some (ofLE_singleton _))⟩
  · have heven : (a + 2) % 2 = 0 := by omega
    obtain ⟨t, u, hwrite, hread, hdata⟩ := read_after_word_write hb hal hin hwin heven (by decide) hs
    exact ⟨t, u, hwrite, hread, hdata.trans (congrArg some (ofLE_adjacent_bytes v 16))⟩

/-- Settles O25: a busy read goes byte by byte, by the write region. -/
theorem busyReadsOfTheWriteRegionAreDraws : Obligations.BusyReadsOfTheWriteRegionAreDraws := by
  unfold Obligations.BusyReadsOfTheWriteRegionAreDraws
  intro s w a hb hhead hal hin hwin
  refine ⟨_, _, step_read_buf hhead hal hin hwin, fun i hi => ?_, fun i hi hw => ?_⟩
  · have hlane : (ofLE (s.readLanes w a)).extractLsb' (8 * i) 8 = s.readLane a i := by
      rw [extractLsb'_ofLE _ (lt_of_lt_of_le hi (width_bytes_le w)), s.readLanes_getD_lt hi]
    rw [hlane]
    exact ⟨fun hreg => ⟨by rwa [s.drawsTaken_inRegion hb hi hreg], s.readLane_inRegion hb hreg⟩,
      s.readLane_outsideRegion⟩
  · rw [extractLsb'_ofLE _ hi, s.readLanes_getD_ge hw]

/-! ### What a pending command sees -/

/-- The fields that the host's accesses can change while a command is pending, and no command reads. -/
structure HostSide where
  wign : Bool
  draws : Nat
  script : List Turn
  busData : Option Word

/-- The state with the fields of the host's side replaced. -/
def State.withHostSide (s : State) (h : HostSide) : State :=
  { s with wign := h.wign, draws := h.draws, script := h.script, busData := h.busData }

theorem withHostSide_ite {c : Prop} [Decidable c] {s t s' t' : State} {h : HostSide} (hs : s' = s.withHostSide h)
    (ht : t' = t.withHostSide h) : (if c then s' else t') = (if c then s else t).withHostSide h := by
  subst hs ht
  exact (apply_ite (·.withHostSide h) c s t).symm

theorem buildBlock_withHostSide (s : State) (h : HostSide) (base : Nat) (addr : Word) :
    (s.withHostSide h).buildBlock base addr = (s.buildBlock base addr).withHostSide h := rfl

theorem endDecode_withHostSide (s : State) (h : HostSide) (res : Option (List Byte × Nat)) :
    (s.withHostSide h).endDecode res = (s.endDecode res).withHostSide h := by
  rcases res with _ | ⟨r, w⟩ <;> rfl

theorem endVerify_withHostSide (s : State) (h : HostSide) (res : Option (List Byte × Nat)) :
    (s.withHostSide h).endVerify res = (s.endVerify res).withHostSide h := by
  rcases res with _ | ⟨block, w⟩
  · rfl
  · exact withHostSide_ite rfl rfl

/-- No command reads the host's side, and every command leaves it alone (R80). -/
theorem exec_withHostSide {i : Instr} {s t : State} (hexec : exec i s = .next t) (h : HostSide) :
    exec i (s.withHostSide h) = .next (t.withHostSide h) := by
  cases i with
  | gfMul => cases hexec; rfl
  | crc16 | polyEval | blockKind | gfDiv =>
    cases hexec
    exact congrArg Host.Outcome.next (withHostSide_ite rfl rfl)
  | buildSuper =>
    cases hexec
    exact congrArg Host.Outcome.next (withHostSide_ite (buildBlock_withHostSide s h _ _) rfl)
  | buildData =>
    cases hexec
    exact congrArg Host.Outcome.next (withHostSide_ite (withHostSide_ite rfl (buildBlock_withHostSide s h _ _)) rfl)
  | rsEncode =>
    cases hexec
    exact congrArg Host.Outcome.next (withHostSide_ite (withHostSide_ite rfl rfl) rfl)
  | rsDecode =>
    cases hexec
    exact congrArg Host.Outcome.next (withHostSide_ite (withHostSide_ite (endDecode_withHostSide s h _) rfl) rfl)
  | verify =>
    cases hexec
    exact congrArg Host.Outcome.next (withHostSide_ite (endVerify_withHostSide s h _) rfl)

/-- A turn of the host that does not reset. -/
def Turn.HostWithoutReset (h : Turn) : Prop :=
  h ≠ .engine ∧ h ≠ .hardReset ∧ ∀ v : Word, v.getLsbD 0 = true → h ≠ .write .w32 0x008 v

/-- While BUSY, a write that is no soft reset changes WIGN only, if anything (R35, R48). -/
theorem busWrite_busy_wign {s : State} (hb : s.busy = true) {w : Width} {off : Nat} {v : Word}
    (hwf : accessWellFormed s.params.bufSize w off = true) (hv : (Turn.write w off v).HostWithoutReset) :
    ∃ b, s.busWrite w off v = { s with wign := b } := by
  by_cases hoff : off = 0x008
  · subst hoff
    obtain rfl := accessWellFormed_low hwf (by decide)
    obtain ⟨-, -, hnot⟩ := hv
    have hsrst : v.getLsbD 0 = false := Bool.eq_false_iff.2 fun h => hnot v h rfl
    exact ⟨_, (busWrite_register v (by decide) (regAt_offset .ctrl)).trans (writeCtrl_of_not_srst s hsrst)⟩
  · exact ⟨_, busWrite_busy hb w hoff v⟩

/-- A step of the host without a reset changes the host's side only, while a command is pending (R48, R80). -/
theorem step_hostTurn_busy {s t : State} {h : Turn} {hs : List Turn} (hb : s.busy = true) (hscript : s.script = h :: hs)
    (hh : h.HostWithoutReset) (hstep : step s = .next t) :
    ∃ g : HostSide, t = s.withHostSide g ∧ g.script = hs := by
  rw [step_of_head (by rw [hscript]; rfl)] at hstep
  have hpop : s.popTurn.script = hs := by rw [State.popTurn_script, hscript]; rfl
  cases h with
  | engine => exact absurd rfl hh.1
  | hardReset => exact absurd rfl hh.2.1
  | read w off =>
    obtain ⟨-, rfl⟩ := guardAccess_next hstep
    exact ⟨⟨_, _, _, _⟩, rfl, hpop⟩
  | write w off v =>
    obtain ⟨hwf, rfl⟩ := guardAccess_next hstep
    obtain ⟨b, hwrite⟩ := busWrite_busy_wign (s := s.popTurn) hb hwf hh
    rw [hwrite]
    exact ⟨⟨_, _, _, _⟩, rfl, hpop⟩

/-- A run of one step more that ends in a state is that step and then the shorter run. -/
theorem run_succ_next {M : Host.Core} {k : Nat} {s u : M.State} (h : M.run (k + 1) s = .next u) :
    ∃ t, M.step s = .next t ∧ M.run k t = .next u := by
  rw [Host.Core.run] at h
  cases ht : M.step s with
  | next t => rw [ht] at h; exact ⟨t, rfl, h⟩
  | fault r => rw [ht] at h; cases h
  | refused r => rw [ht] at h; cases h

/-- Any number of such steps changes the host's side only, and takes just those turns off the script (R80). -/
theorem run_hostTurns_busy {rest : List Turn} : ∀ {hs : List Turn} {s u : State}, s.busy = true →
    s.script = hs ++ rest → (∀ h ∈ hs, h.HostWithoutReset) → Host.Core.run core hs.length s = .next u →
    ∃ g : HostSide, u = s.withHostSide g ∧ g.script = rest
  | [], s, u, _, hscript, _, hrun => by
    cases hrun
    exact ⟨⟨s.wign, s.draws, s.script, s.busData⟩, rfl, hscript⟩
  | h :: hs, s, u, hb, hscript, hall, hrun => by
    obtain ⟨t, hstep, hrun⟩ := run_succ_next hrun
    obtain ⟨hh, hhs⟩ := List.forall_mem_cons.1 hall
    obtain ⟨g, rfl, hg⟩ := step_hostTurn_busy hb hscript hh hstep
    obtain ⟨g', rfl, hg'⟩ := run_hostTurns_busy (s := s.withHostSide g) hb hg hhs hrun
    exact ⟨g', rfl, hg'⟩

/-- Settles O33: the host reaches only fields that the command does not read. -/
theorem pendingCommandSeesAcceptedInputs : Obligations.PendingCommandSeesAcceptedInputs := by
  unfold Obligations.PendingCommandSeesAcceptedInputs
  intro hs rest s u i hscript hb _ hdec hall hrun
  obtain ⟨g, rfl, hg⟩ := run_hostTurns_busy hb hscript hall hrun
  obtain ⟨t, hexec, -⟩ := exec_commandEnd i s
  exact ⟨hdec, hg, t, t.withHostSide g, hexec, exec_withHostSide hexec g, rfl, rfl, rfl, fun _ => rfl⟩

end Sys2Proof.Machine

/-! PROOFS. The statements about command words: what the decoder makes of each, and which bytes of BUF the write region
of a command holds. -/

namespace Sys2Proof

/-! ### The fields of a command word -/

theorem rsvField_toNat (w : Word) : (rsvField w).toNat = w.toNat / 256 := by
  rw [rsvField, BitVec.extractLsb'_toNat, Nat.shiftRight_eq_div_pow]
  omega

theorem opcField_toNat (w : Word) : (opcField w).toNat = w.toNat % 256 := by
  simp [opcField, BitVec.extractLsb'_toNat]

theorem rsvField_eq_zero_iff (w : Word) : rsvField w = 0#24 ↔ w.toNat / 256 = 0 := by
  rw [← BitVec.toNat_inj, rsvField_toNat, BitVec.toNat_ofNat, Nat.zero_mod]

/-- A command word is its two fields side by side (R101). -/
theorem word_eq_append_fields (w : Word) : w = (rsvField w ++ opcField w : BitVec 32) := by
  apply BitVec.eq_of_toNat_eq
  have hopc := (opcField w).isLt
  rw [BitVec.toNat_append, ← Nat.shiftLeft_add_eq_or_of_lt hopc, Nat.shiftLeft_eq, rsvField_toNat, opcField_toNat]
  omega

/-- RSV is 0 and the opcode is 1 to 10, said of the word as a number (R101). -/
theorem fields_select_iff (w : Word) :
    rsvField w = 0#24 ∧ 1 ≤ (opcField w).toNat ∧ (opcField w).toNat ≤ 10 ↔ 1 ≤ w.toNat ∧ w.toNat ≤ 10 := by
  rw [rsvField_eq_zero_iff, opcField_toNat]
  omega

/-! ### Decoding -/

theorem opcodeOf_of_ofOpcode {opc : Byte} {i : Instr} (h : ofOpcode opc = some i) : opc = opcodeOf i := by
  unfold ofOpcode at h
  split at h
  case h_11 => cases h
  all_goals
    cases h
    exact BitVec.eq_of_toNat_eq ‹_›

/-- Every opcode from 1 to 10 has its command (R102). -/
theorem exists_ofOpcode {opc : Byte} (h1 : 1 ≤ opc.toNat) (h10 : opc.toNat ≤ 10) : ∃ i, ofOpcode opc = some i := by
  unfold ofOpcode
  generalize opc.toNat = n at h1 h10 ⊢
  interval_cases n <;> exact ⟨_, rfl⟩

theorem decodeWord_eq_ok_iff_fields (w : Word) (i : Instr) :
    decodeWord w = .ok i ↔ rsvField w = 0#24 ∧ ofOpcode (opcField w) = some i := by
  unfold decodeWord
  split
  case isTrue hrsv => cases ofOpcode (opcField w) <;> simp [hrsv]
  case isFalse hrsv => simp [hrsv]

theorem decodeWord_encode (i : Instr) : decodeWord (encode i) = .ok i := by cases i <;> rfl

theorem decodeWord_eq_ok_iff (w : Word) (i : Instr) : decodeWord w = .ok i ↔ w = encode i := by
  constructor
  · intro h
    obtain ⟨hrsv, hopc⟩ := (decodeWord_eq_ok_iff_fields w i).1 h
    rw [word_eq_append_fields w, hrsv, opcodeOf_of_ofOpcode hopc, encode]
  · rintro rfl
    exact decodeWord_encode i

/-- Every command has the property the model's laws prove constructor by constructor. -/
theorem encoding_statement : (i : Instr) → Laws.Encoding.Statement i
  | .crc16 => Laws.Encoding.crc16
  | .gfMul => Laws.Encoding.gfMul
  | .gfDiv => Laws.Encoding.gfDiv
  | .polyEval => Laws.Encoding.polyEval
  | .rsEncode => Laws.Encoding.rsEncode
  | .rsDecode => Laws.Encoding.rsDecode
  | .buildData => Laws.Encoding.buildData
  | .buildSuper => Laws.Encoding.buildSuper
  | .verify => Laws.Encoding.verify
  | .blockKind => Laws.Encoding.blockKind

/-- Which words select a command, by their fields (R101). -/
theorem exists_decodeWord_iff_fields (w : Word) :
    (∃ i, decodeWord w = .ok i) ↔ rsvField w = 0#24 ∧ 1 ≤ (opcField w).toNat ∧ (opcField w).toNat ≤ 10 := by
  constructor
  · rintro ⟨i, h⟩
    obtain rfl := (decodeWord_eq_ok_iff w i).1 h
    exact (encoding_statement i).2
  · rintro ⟨hrsv, h1, h10⟩
    obtain ⟨i, hi⟩ := exists_ofOpcode h1 h10
    exact ⟨i, (decodeWord_eq_ok_iff_fields w i).2 ⟨hrsv, hi⟩⟩

/-- Which words are reserved: those that select no command (R103). -/
theorem exists_decodeWord_error_iff (w : Word) : (∃ r, decodeWord w = .error r) ↔ w.toNat = 0 ∨ 10 < w.toNat := by
  have hok : (∃ i, decodeWord w = .ok i) ↔ 1 ≤ w.toNat ∧ w.toNat ≤ 10 :=
    (exists_decodeWord_iff_fields w).trans (fields_select_iff w)
  have hnot : (∃ r, decodeWord w = .error r) ↔ ¬ ∃ i, decodeWord w = .ok i := by
    cases decodeWord w <;> simp
  rw [hnot, hok]
  omega

theorem tableWord_toNat (w : Word) : tableWord 32 w.toNat = w := by
  rw [tableWord, Nat.mod_eq_of_lt w.isLt, BitVec.ofNat_toNat, BitVec.setWidth_eq]

theorem decodeTableWord_encode (i : Instr) : decodeTableWord 32 (encode i).toNat = some i := by
  rw [decodeTableWord, tableWord_toNat, decodeWord_encode]

/-- Settles O14: the decoder inverts the encoder on exactly the words of RSV 0 and opcode 1 to 10. -/
theorem wordSelectsCommandIffExact : Obligations.WordSelectsCommandIffExact := by
  unfold Obligations.WordSelectsCommandIffExact
  exact ⟨decodeWord_eq_ok_iff, exists_decodeWord_iff_fields⟩

/-- Settles O13: every command has an opcode of its own. -/
theorem decodeInvertsEncode : Obligations.DecodeInvertsEncode := by
  unfold Obligations.DecodeInvertsEncode
  exact fun i => ⟨(encoding_statement i).1, decodeWord_encode i, decodeTableWord_encode i⟩

/-- Settles O15: each of the ten words is the encoding of its command. -/
theorem opcodeMapWords : Obligations.OpcodeMapWords := by
  unfold Obligations.OpcodeMapWords
  exact ⟨decodeWord_encode .crc16, decodeWord_encode .gfMul, decodeWord_encode .gfDiv, decodeWord_encode .polyEval,
    decodeWord_encode .rsEncode, decodeWord_encode .rsDecode, decodeWord_encode .buildData,
    decodeWord_encode .buildSuper, decodeWord_encode .verify, decodeWord_encode .blockKind⟩

end Sys2Proof

namespace Sys2Proof.Machine

/-! ### A reserved word -/

theorem runPending_reserved {s : State} {r : DecodeReject} (h : decodeWord s.pending = .error r) :
    runPending s = .next (s.raise .eBadOpcode) := by rw [runPending, h]

/-- Settles O10: the words that select no command, and the one way such a word ends. -/
theorem reservedWordsEndWithBadOpcode : Obligations.ReservedWordsEndWithBadOpcode := by
  unfold Obligations.ReservedWordsEndWithBadOpcode
  refine ⟨exists_decodeWord_error_iff, fun s hr hb hn hw => ?_⟩
  obtain ⟨r, hdec⟩ := (exists_decodeWord_error_iff s.pending).2 hw
  rw [step_of_engineNext hn, engineTurn_pending (s := s.popTurn) hr hb, runPending_reserved (s := s.popTurn) hdec]
  rfl

/-! ### The write region of each command -/

theorem State.inWriteRegion_of_ok {s : State} {i : Instr} (h : decodeWord s.pending = .ok i) (a : Nat) :
    s.inWriteRegion a = regionOf i s a := by rw [State.inWriteRegion, h]

theorem State.inWriteRegion_of_error {s : State} {r : DecodeReject} (h : decodeWord s.pending = .error r) (a : Nat) :
    s.inWriteRegion a = false := by rw [State.inWriteRegion, h]

section

variable (s : State) (a : Nat)

theorem State.inBlockAt_iff (lo hi : Nat) :
    s.inBlockAt lo hi a = true ↔ s.offset + 128 ≤ s.params.bufSize ∧ s.offset + lo ≤ a ∧ a < s.offset + hi := by
  simp [State.inBlockAt, State.spanFits_iff, and_assoc]

theorem regionOf_rsEncode_iff :
    regionOf .rsEncode s a = true ↔ s.offset + s.codec.n ≤ s.params.bufSize + s.codec.pad
      ∧ s.offset + s.codec.n ≤ a + s.codec.necc + s.codec.pad ∧ a + s.codec.pad < s.offset + s.codec.n := by
  simp [regionOf, State.wordFits, and_assoc]

theorem regionOf_rsDecode_iff :
    regionOf .rsDecode s a = true ↔ s.offset + s.codec.n ≤ s.params.bufSize + s.codec.pad
      ∧ s.offset ≤ a ∧ a + s.codec.pad < s.offset + s.codec.n := by
  simp [regionOf, State.wordFits, and_assoc]

theorem regionOf_buildData_iff :
    regionOf .buildData s a = true ↔ s.offset + 128 ≤ s.params.bufSize
      ∧ ((s.offset ≤ a ∧ a < s.offset + 4) ∨ (s.offset + 94 ≤ a ∧ a < s.offset + 128)) := by
  rw [regionOf, Bool.or_eq_true, State.inBlockAt_iff, State.inBlockAt_iff, ← and_or_left]
  rfl

/-- Both builders write the same bytes of their block (R105). -/
theorem regionOf_buildSuper : regionOf .buildSuper s a = regionOf .buildData s a := rfl

theorem regionOf_verify_iff :
    regionOf .verify s a = true ↔ s.offset + 128 ≤ s.params.bufSize ∧ s.offset ≤ a ∧ a < s.offset + 128 := by
  rw [regionOf, State.inBlockAt_iff]
  rfl

end

/-- The write region of a pending command, byte by byte, when the word is the command's (R105). -/
theorem State.inWriteRegion_of_encode {s : State} {i : Instr} (h : s.pending = encode i) (a : Nat) :
    s.inWriteRegion a = regionOf i s a :=
  State.inWriteRegion_of_ok ((decodeWord_eq_ok_iff _ _).2 h) a

/-- No word below RS_ENCODE's or above VERIFY's has a write region (R103, R105). -/
theorem State.inWriteRegion_of_other {s : State} (h : s.pending.toNat < 5 ∨ 9 < s.pending.toNat) (a : Nat) :
    s.inWriteRegion a = false := by
  cases hdec : decodeWord s.pending with
  | error r => exact State.inWriteRegion_of_error hdec a
  | ok i =>
    rw [State.inWriteRegion_of_ok hdec]
    rw [(decodeWord_eq_ok_iff _ _).1 hdec] at h
    cases i with
    | crc16 | gfMul | gfDiv | polyEval | blockKind => rfl
    | rsEncode | rsDecode | buildData | buildSuper | verify => exact absurd h (by decide)

/-- Settles O26: the region's bounds are R105's, moved to the side of the inequality where they are sums. -/
theorem pendingWriteRegionByteByByte : Obligations.PendingWriteRegionByteByByte := by
  unfold Obligations.PendingWriteRegionByteByByte
  intro s a off size n necc pad
  have hoff : s.offset = s.arg0.toNat := rfl
  have hn : s.codec.n = s.codecCfg.toNat % 256 := codecOfWord_n _
  have hnecc : s.codec.necc = s.codecCfg.toNat / 256 % 256 := codecOfWord_necc _
  have hpad : s.codec.pad = s.codecCfg.toNat / 65536 % 256 := codecOfWord_pad _
  refine ⟨fun h => ?_, fun h => ?_, fun h => ?_, fun h => ?_, fun h => State.inWriteRegion_of_other h a⟩
  · rw [State.inWriteRegion_of_encode (i := .rsEncode) h, regionOf_rsEncode_iff, hn, hnecc, hpad]
    omega
  · rw [State.inWriteRegion_of_encode (i := .rsDecode) h, regionOf_rsDecode_iff, hn, hpad]
    omega
  · have hregion : s.inWriteRegion a = regionOf .buildData s a := by
      rcases h with h | h
      · exact State.inWriteRegion_of_encode h a
      · rw [← regionOf_buildSuper]
        exact State.inWriteRegion_of_encode h a
    rw [hregion, regionOf_buildData_iff]
    omega
  · rw [State.inWriteRegion_of_encode (i := .verify) h, regionOf_verify_iff]
    omega

/-! ### A command writes inside its region -/

/-- Every write region lies inside BUF (R105, R246). -/
theorem regionOf_lt_bufSize {i : Instr} {s : State} {a : Nat} (h : regionOf i s a = true) : a < s.params.bufSize := by
  cases i with
  | crc16 | gfMul | gfDiv | polyEval | blockKind => cases h
  | rsEncode => rw [regionOf_rsEncode_iff] at h; omega
  | rsDecode => rw [regionOf_rsDecode_iff] at h; omega
  | buildData | buildSuper =>
    obtain ⟨hfit, hin⟩ := (regionOf_buildData_iff s a).1 h
    omega
  | verify => rw [regionOf_verify_iff] at h; omega

/-- The five commands whose region is empty leave BUF as data alone (R105). -/
theorem exec_mem_of_readOnly {i : Instr} {s t : State}
    (hi : i = .crc16 ∨ i = .gfMul ∨ i = .gfDiv ∨ i = .polyEval ∨ i = .blockKind) (h : exec i s = .next t) :
    t.mem = s.mem := by
  rcases hi with rfl | rfl | rfl | rfl | rfl <;> cases h
  case inr.inl => rfl
  all_goals exact iteInduction (motive := fun u : State => u.mem = s.mem) (fun _ => rfl) (fun _ => rfl)

/-- A command leaves the draws of BUF alone, so that BUF reads as before where its data is as before. -/
theorem bufByte_of_exec_mem {i : Instr} {s t : State} (h : exec i s = .next t) (hm : t.mem = s.mem) (a : Nat) :
    t.bufByte a = s.bufByte a := by
  obtain ⟨u, hu, m, e, r0, r1, rfl⟩ := exec_commandEnd i s
  obtain rfl : _ = t := by injection hu.symm.trans h
  exact State.bufByte_congr hm rfl a

section

variable {s : State} {a : Nat}

theorem bufByte_ite {c : Prop} [Decidable c] {t u : State} {b : Byte} (ht : c → t.bufByte a = b)
    (hu : u.bufByte a = b) : (if c then t else u).bufByte a = b :=
  iteInduction (motive := fun v : State => v.bufByte a = b) ht fun _ => hu

/-- The parity of a fitting message goes into RS_ENCODE's region (R180). -/
theorem bufByte_write_parity (hout : regionOf .rsEncode s a = false) (hv : s.codec.valid = true)
    (hfit : s.spanFits s.offset s.codec.wordLen = true) (m : List Byte) :
    (s.memWrite (s.offset + s.codec.msgLen) (rsParity s.params s.tables s.codec.necc m)).bufByte a = s.bufByte a := by
  have hnot := mt (regionOf_rsEncode_iff s a).2 (by simp [hout])
  have hcfg := s.codec.valid_iff.1 hv
  have hspan := (s.spanFits_iff _ _).1 hfit
  apply State.bufByte_memWrite_outside
  rw [rsParity_length]
  simp only [Codec.wordLen, Codec.msgLen] at hspan ⊢
  omega

/-- A corrected word goes over the one that was read, and nowhere else. -/
theorem bufByte_write_corrected {p : Params} {T : Tables} {necc n w : Nat} {r : List Byte}
    (ha : a < s.offset ∨ s.offset + n ≤ a) (hr : rsCorrect p T necc (s.memRead s.offset n) = some (r, w)) :
    (s.memWrite s.offset r).bufByte a = s.bufByte a := by
  apply State.bufByte_memWrite_outside
  rwa [rsCorrect_length hr, State.memRead_length]

theorem bufByte_endDecode {p : Params} {T : Tables} {necc n : Nat} (ha : a < s.offset ∨ s.offset + n ≤ a) :
    (s.endDecode (rsCorrect p T necc (s.memRead s.offset n))).bufByte a = s.bufByte a := by
  unfold State.endDecode
  split
  · rfl
  next hr => exact bufByte_write_corrected ha hr

theorem bufByte_endVerify {p : Params} {T : Tables} {necc n : Nat} (ha : a < s.offset ∨ s.offset + n ≤ a) :
    (s.endVerify (rsCorrect p T necc (s.memRead s.offset n))).bufByte a = s.bufByte a := by
  unfold State.endVerify
  split
  · rfl
  next hr => exact bufByte_ite (fun _ => bufByte_write_corrected ha hr) rfl

/-- Building a block writes its first 4 and its last 34 bytes (R220, R221). -/
theorem bufByte_buildBlock {base : Nat} (addr : Word) (haddr : a < base ∨ base + 4 ≤ a)
    (htail : a < base + 94 ∨ base + 128 ≤ a) : (s.buildBlock base addr).bufByte a = s.bufByte a := by
  calc (s.buildBlock base addr).bufByte a
      = ((s.memWrite base (le32 addr)).memWrite (base + 94) (s.blockTail base addr)).bufByte a := rfl
    _ = (s.memWrite base (le32 addr)).bufByte a :=
        State.bufByte_memWrite_outside _ (by rw [State.blockTail_length]; omega)
    _ = s.bufByte a := State.bufByte_memWrite_outside _ (by rwa [le32_length])

/-- A builder whose block fits leaves every byte outside its region (R105). -/
theorem bufByte_buildBlock_offset (hout : regionOf .buildData s a = false)
    (hfit : s.spanFits s.offset Config.blockSize = true) (addr : Word) :
    (s.buildBlock s.offset addr).bufByte a = s.bufByte a := by
  have hnot := mt (regionOf_buildData_iff s a).2 (by simp [hout])
  have hspan : s.offset + 128 ≤ s.params.bufSize := (s.spanFits_iff _ _).1 hfit
  exact bufByte_buildBlock addr (by omega) (by omega)

end

/-- A command changes no byte outside its write region (R105). -/
theorem exec_bufByte_outside {i : Instr} {s t : State} (h : exec i s = .next t) {a : Nat}
    (hout : regionOf i s a = false) : t.bufByte a = s.bufByte a := by
  cases i with
  | crc16 | gfMul | gfDiv | polyEval | blockKind =>
    exact bufByte_of_exec_mem h (exec_mem_of_readOnly (by decide) h) a
  | rsEncode =>
    cases h
    exact bufByte_ite (fun hv => bufByte_ite (fun hfit => bufByte_write_parity hout hv hfit _) rfl) rfl
  | rsDecode =>
    cases h
    refine bufByte_ite (fun hv => bufByte_ite (fun hfit => bufByte_endDecode ?_) rfl) rfl
    have hnot := mt (regionOf_rsDecode_iff s a).2 (by simp [hout])
    have hcfg := s.codec.valid_iff.1 hv
    have hspan := (s.spanFits_iff _ _).1 hfit
    simp only [Codec.wordLen] at hspan ⊢
    omega
  | buildData =>
    cases h
    exact bufByte_ite (fun hfit => bufByte_ite (fun _ => rfl) (bufByte_buildBlock_offset hout hfit _)) rfl
  | buildSuper =>
    cases h
    exact bufByte_ite (fun hfit => bufByte_buildBlock_offset hout hfit _) rfl
  | verify =>
    cases h
    refine bufByte_ite (fun hfit => bufByte_endVerify ?_) rfl
    have hnot := mt (regionOf_verify_iff s a).2 (by simp [hout])
    have hspan : s.offset + 128 ≤ s.params.bufSize := (s.spanFits_iff _ _).1 hfit
    show a < s.offset ∨ s.offset + 128 ≤ a
    omega

/-- Settles O36: every write of a command lies in the span its range check has passed. -/
theorem commandsWriteInsideTheirRegion : Obligations.CommandsWriteInsideTheirRegion := by
  unfold Obligations.CommandsWriteInsideTheirRegion
  intro i s t h
  refine ⟨fun a hout => exec_bufByte_outside h hout, fun a ha => ?_, fun hi => exec_mem_of_readOnly hi h⟩
  exact Bool.eq_false_iff.2 fun hin => absurd (regionOf_lt_bufSize hin) (by omega)

end Sys2Proof.Machine

/-! PROOFS. The statements about the built tables and the CRC16 engine: the exponent table runs through the powers of z,
the logarithm table inverts it, and one look-up in the CRC table is eight shifts of the bit-serial register. -/

namespace Sys2Proof.Machine

/-! ### The powers of z -/

/-- The ninth bit that `timesZ` makes is the one `xtime` drops in its shift (R150, R152). -/
theorem xtime_eq_timesZ (poly : BitVec 9) : xtime poly = timesZ poly := by
  funext a
  apply BitVec.eq_of_getLsbD_eq
  intro i hi
  cases h : a[7] <;> simp [xtime, timesZ, h, hi]

theorem timesZ_iterate_zero (poly : BitVec 9) (i : Nat) : (timesZ poly)^[i] 0#8 = 0#8 :=
  Function.iterate_fixed (by simp [timesZ]) i

theorem alphaPow_succ (poly : BitVec 9) (i : Nat) : alphaPow poly (i + 1) = timesZ poly (alphaPow poly i) :=
  Function.iterate_succ_apply' _ i _

theorem xtimeChain_eq_iterate (poly : BitVec 9) (n : Nat) :
    ∀ a, xtimeChain poly n a = List.iterate (timesZ poly) a n := by
  induction n with
  | zero => intro a; rfl
  | succ n ih => intro a; rw [xtimeChain, ih, xtime_eq_timesZ, List.iterate]

theorem gfExpTable_eq_map_alphaPow (poly : BitVec 9) : gfExpTable poly = (List.range 255).map (alphaPow poly) := by
  rw [gfExpTable, xtimeChain_eq_iterate, ← List.range_map_iterate]
  rfl

/-- GF_EXP[i] is `α^i` (R151, R152). -/
theorem expAt_build (p : Params) {i : Nat} (hi : i < 255) : (Tables.build p).expAt i = alphaPow p.rsGfPoly i := by
  simp [Tables.expAt, Tables.build, gfExpTable_eq_map_alphaPow, hi]

theorem toNat_mem_Icc_of_ne_zero {a : Byte} (ha : a ≠ 0#8) : a.toNat ∈ Finset.Icc 1 255 := by
  have hne : a.toNat ≠ 0 := BitVec.toNat_ne_iff_ne.2 ha
  have hlt := a.isLt
  rw [Finset.mem_Icc]
  omega

/-- GF_LOG[a] is the place of `a` in GF_EXP, as a byte (R152). -/
theorem logAt_build (p : Params) {a : Byte} (ha : a ≠ 0#8) :
    (Tables.build p).logAt a = (gfExpTable p.rsGfPoly).idxOf a % 256 := by
  obtain ⟨hpos, hle⟩ := Finset.mem_Icc.1 (toNat_mem_Icc_of_ne_zero ha)
  have hlt : a.toNat - 1 < 255 := by omega
  simp [Tables.logAt, Tables.build, gfLogTable, gfLogEntry, hlt, Nat.sub_add_cancel hpos, List.idxOf]

/-! ### A primitive field polynomial -/

/-- Primitivity as the parameter check computes it, in terms of the powers of z (R14). -/
theorem gfPolyPrimitive_iff (p : Params) :
    p.gfPolyPrimitive = true ↔ (∀ i < 254, alphaPow p.rsGfPoly (i + 1) ≠ 1#8) ∧ alphaPow p.rsGfPoly 255 = 1#8 := by
  have htail : (gfExpTable p.rsGfPoly).tail = (List.range 254).map fun i => alphaPow p.rsGfPoly (i + 1) := by
    rw [gfExpTable_eq_map_alphaPow, List.range_succ_eq_map, List.map_cons, List.tail_cons, List.map_map]
    rfl
  have hlast : xtime p.rsGfPoly ((gfExpTable p.rsGfPoly).getD 254 0#8) = alphaPow p.rsGfPoly 255 := by
    rw [alphaPow_succ, ← xtime_eq_timesZ, ← expAt_build p (by decide)]
    rfl
  rw [Params.gfPolyPrimitive, htail, hlast]
  simp

section

variable {p : Params} (hp : p.wellFormed = true)
include hp

theorem alphaPow_255 : alphaPow p.rsGfPoly 255 = 1#8 := by
  simp only [Params.wellFormed, Bool.and_eq_true, gfPolyPrimitive_iff] at hp
  tauto

/-- z has order 255: that is what primitive says of the field polynomial (R14, R151). -/
theorem timesZ_minimalPeriod : Function.minimalPeriod (timesZ p.rsGfPoly) 1#8 = 255 := by
  have hper : Function.IsPeriodicPt (timesZ p.rsGfPoly) 255 1#8 := alphaPow_255 hp
  have hpos := hper.minimalPeriod_pos (by decide)
  have hback := Function.iterate_minimalPeriod (f := timesZ p.rsGfPoly) (x := 1#8)
  refine (hper.minimalPeriod_le (by decide)).antisymm (not_lt.1 fun hlt => ?_)
  simp only [Params.wellFormed, Bool.and_eq_true, gfPolyPrimitive_iff] at hp
  obtain ⟨⟨⟨⟨⟨-, hne, -⟩, -⟩, -⟩, -⟩, -⟩ := hp
  obtain ⟨i, hi⟩ := Nat.exists_eq_add_of_lt hpos
  rw [zero_add] at hi
  exact hne i (by omega) (by rwa [hi] at hback)

theorem alphaPow_injOn : Set.InjOn (alphaPow p.rsGfPoly) (Set.Iio 255) := by
  rw [← timesZ_minimalPeriod hp]
  exact Function.iterate_injOn_Iio_minimalPeriod

/-- A power that were 0 would keep `α^255` at 0. -/
theorem alphaPow_ne_zero {i : Nat} (hi : i < 255) : alphaPow p.rsGfPoly i ≠ 0#8 := by
  intro h0
  have hsplit : alphaPow p.rsGfPoly 255 = (timesZ p.rsGfPoly)^[255 - i] (alphaPow p.rsGfPoly i) := by
    rw [alphaPow, alphaPow, ← Function.iterate_add_apply, Nat.sub_add_cancel hi.le]
  rw [alphaPow_255 hp, h0, timesZ_iterate_zero] at hsplit
  exact absurd hsplit (by decide)

/-- The 255 powers are different nonzero bytes, and there are no more than 255 of those. -/
theorem exists_alphaPow_eq {a : Byte} (ha : a ≠ 0#8) : ∃ i < 255, alphaPow p.rsGfPoly i = a := by
  have hmaps : Set.MapsTo (fun i => (alphaPow p.rsGfPoly i).toNat) (Finset.range 255) (Finset.Icc 1 255) :=
    fun i hi => toNat_mem_Icc_of_ne_zero (alphaPow_ne_zero hp (Finset.mem_range.1 hi))
  have hinj : Set.InjOn (fun i => (alphaPow p.rsGfPoly i).toNat) (Finset.range 255) := fun i hi j hj hij =>
    alphaPow_injOn hp (Finset.mem_range.1 hi) (Finset.mem_range.1 hj) (BitVec.eq_of_toNat_eq hij)
  obtain ⟨i, hi, hia⟩ := Finset.surjOn_of_injOn_of_card_le _ hmaps hinj (by simp) (toNat_mem_Icc_of_ne_zero ha)
  exact ⟨i, Finset.mem_range.1 hi, BitVec.eq_of_toNat_eq hia⟩

/-- GF_LOG inverts GF_EXP (R152). -/
theorem logAt_build_alphaPow {i : Nat} (hi : i < 255) : (Tables.build p).logAt (alphaPow p.rsGfPoly i) = i := by
  have hnodup : ((List.range 255).map (alphaPow p.rsGfPoly)).Nodup :=
    List.nodup_range.map_on fun i hi j hj h =>
      alphaPow_injOn hp (List.mem_range.1 hi) (List.mem_range.1 hj) h
  have hidx := hnodup.idxOf_getElem i (by simpa using hi)
  rw [List.getElem_map, List.getElem_range] at hidx
  rw [logAt_build p (alphaPow_ne_zero hp hi), gfExpTable_eq_map_alphaPow, hidx]
  omega

end

/-! ### The CRC table -/

/-- How a byte enters the bit-serial register: at the bottom when reflected, at the top when not (R133). -/
def crcEntry (p : Params) (b : Byte) : Half := if p.crcReflect then b.setWidth 16 else b.setWidth 16 <<< 8

/-- A CRC table entry is eight bits of the bit-serial register (R131, R133). -/
theorem crcAt_build (p : Params) (b : Byte) : (Tables.build p).crcAt b = (crcBit p)^[8] (crcEntry p b) := by
  have hentry : (Tables.build p).crcAt b = crcTableEntry p b.toNat := by
    simp [Tables.crcAt, Tables.build, crcTable, b.isLt]
  cases h : p.crcReflect with
  | false =>
    have hbit : crcBit p = crcShiftLeft p.crcPoly := by funext c; simp [crcBit, crcShiftLeft, h]
    simp [hentry, crcTableEntry, crcEntry, h, hbit, BitVec.ofNat_toNat]
  | true =>
    have hbit : crcBit p = crcShiftRight (reflect16 p.crcPoly) := by funext c; simp [crcBit, crcShiftRight, h]
    simp [hentry, crcTableEntry, crcEntry, h, hbit, BitVec.ofNat_toNat]

/-! ### The shifts of the CRC register are linear -/

theorem ite_xor_xor (x y : Bool) (c d q : Half) :
    (if x ^^ y then c ^^^ d ^^^ q else c ^^^ d) = (if x then c ^^^ q else c) ^^^ (if y then d ^^^ q else d) := by
  match x, y with
  | false, false => rfl
  | false, true => exact BitVec.xor_assoc c d q
  | true, false => change c ^^^ d ^^^ q = c ^^^ q ^^^ d; ac_rfl
  | true, true =>
    calc c ^^^ d = c ^^^ d ^^^ (q ^^^ q) := by rw [BitVec.xor_self, BitVec.xor_zero]
      _ = c ^^^ q ^^^ (d ^^^ q) := by ac_rfl

/-- Over GF(2) one shift of the register is linear. -/
theorem crcBit_xor (p : Params) (c d : Half) : crcBit p (c ^^^ d) = crcBit p c ^^^ crcBit p d := by
  cases h : p.crcReflect with
  | false =>
    simp only [crcBit, h, Bool.false_eq_true, if_false, BitVec.getLsbD_xor, BitVec.shiftLeft_xor_distrib, ite_xor_xor]
  | true => simp only [crcBit, h, if_true, BitVec.getLsbD_xor, BitVec.ushiftRight_xor_distrib, ite_xor_xor]

theorem crcBit_iterate_xor (p : Params) (k : Nat) (c d : Half) :
    (crcBit p)^[k] (c ^^^ d) = (crcBit p)^[k] c ^^^ (crcBit p)^[k] d := by
  induction k generalizing c d with
  | zero => rfl
  | succ k ih => simp only [Function.iterate_succ_apply, crcBit_xor, ih]

/-! ### The bytes of the CRC register -/

/-- Without a 1 among the bits that leave, shifting is all that happens: the reflected register. -/
theorem crcBit_iterate_ushiftRight {p : Params} (h : p.crcReflect = true) {c : Half} {k : Nat}
    (hc : ∀ j < k, c.getLsbD j = false) : (crcBit p)^[k] c = c >>> k := by
  induction k with
  | zero => simp
  | succ k ih =>
    rw [Function.iterate_succ_apply', ih fun j hj => hc j (by omega)]
    simp [crcBit, h, hc k (by omega), BitVec.shiftRight_add]

/-- The same for the register that is not reflected, whose bits leave at the top. -/
theorem crcBit_iterate_shiftLeft {p : Params} (h : p.crcReflect = false) {c : Half} {k : Nat} (hk : k ≤ 16)
    (hc : ∀ j < k, c.getLsbD (15 - j) = false) : (crcBit p)^[k] c = c <<< k := by
  induction k with
  | zero => simp
  | succ k ih =>
    rw [Function.iterate_succ_apply', ih (by omega) fun j hj => hc j (by omega)]
    have hout : (c <<< k).getLsbD 15 = false := by rw [BitVec.getLsbD_shiftLeft, hc k (by omega), Bool.and_false]
    simp only [crcBit, h, hout, Bool.false_eq_true, if_false, BitVec.shiftLeft_add]

/-- The reflected register with a byte added at its low end, by the byte that stays and the one that leaves. -/
theorem xor_lowByte_eq (c : Half) (b : Byte) :
    c ^^^ b.setWidth 16 = c >>> 8 <<< 8 ^^^ (c.extractLsb' 0 8 ^^^ b).setWidth 16 := by
  ext i hi
  by_cases h8 : i < 8
  · simp [h8, BitVec.getLsbD_eq_getElem hi]
  · simp [h8, BitVec.getLsbD_eq_getElem hi, show 8 + (i - 8) = i by omega]

/-- The same for a byte added at the high end. -/
theorem xor_highByte_eq (c : Half) (b : Byte) :
    c ^^^ b.setWidth 16 <<< 8 = (c.extractLsb' 0 8).setWidth 16 ^^^ (c.extractLsb' 8 8 ^^^ b).setWidth 16 <<< 8 := by
  ext i hi
  by_cases h8 : i < 8
  · simp [h8, BitVec.getLsbD_eq_getElem hi]
  · simp [h8, BitVec.getLsbD_eq_getElem hi, show i - 8 < 8 by omega, show 8 + (i - 8) = i by omega]

/-- One table look-up is one byte of the bit-serial register: the byte that leaves joins the one that enters and goes
through the table, the byte that stays is shifted only (R132, R133). -/
theorem crcByte_build (p : Params) (c : Half) (b : Byte) : crcByte p (Tables.build p) c b = crcSerialByte p c b := by
  rw [crcByte, crcSerialByte, crcAt_build, crcAt_build]
  cases h : p.crcReflect with
  | false =>
    have hstay : (crcBit p)^[8] ((c.extractLsb' 0 8).setWidth 16) = c <<< 8 := by
      rw [crcBit_iterate_shiftLeft h (by decide) fun j hj => by simp; omega]
      grind
    simp only [crcEntry, h, Bool.false_eq_true, if_false, xor_highByte_eq c b, crcBit_iterate_xor, hstay]
  | true =>
    have hstay : (crcBit p)^[8] (c >>> 8 <<< 8) = c >>> 8 := by
      rw [crcBit_iterate_ushiftRight h fun j hj => by simp; omega]
      grind
    simp only [crcEntry, h, if_true, xor_lowByte_eq c b, crcBit_iterate_xor, hstay]

/-! ### The command CRC16 -/

/-- CRC16 on a span that fits (R135). -/
theorem exec_crc16_of_fits {s : State} (h : s.offset + s.length ≤ s.params.bufSize) :
    exec .crc16 s
      = .next (s.endCommand .eNone (zextHalf (crc16 s.params s.tables (s.memRead s.offset s.length))) 0#32) :=
  congrArg _ (if_pos ((s.spanFits_iff _ _).2 h))

/-- CRC16 on a span that reaches beyond BUF (R135, R246). -/
theorem exec_crc16_of_beyond {s : State} (h : s.params.bufSize < s.offset + s.length) :
    exec .crc16 s = .next (s.endCommand .eRange 0#32 0#32) :=
  congrArg _ (if_neg fun hfit => absurd ((s.spanFits_iff _ _).1 hfit) (by omega))

/-! ### The statements -/

/-- Settles O6: GF_EXP lists the powers of z, which a primitive polynomial makes run once through the nonzero bytes, so
that GF_LOG inverts it. -/
theorem builtTablesHoldPowersLogsAndCrcs : Obligations.BuiltTablesHoldPowersLogsAndCrcs := by
  unfold Obligations.BuiltTablesHoldPowersLogsAndCrcs
  intro p hp
  refine ⟨?_, ?_, ?_, expAt_build p (by decide), fun i hi => ?_, fun i hi => ?_, fun a ha => ?_, crcAt_build p⟩
  · simp [Tables.build, gfExpTable_eq_map_alphaPow]
  · simp [Tables.build, gfLogTable]
  · simp [Tables.build, crcTable]
  · rw [expAt_build p (by omega), expAt_build p (by omega), alphaPow_succ]
  · rw [expAt_build p hi]
    exact ⟨alphaPow_ne_zero hp hi, logAt_build_alphaPow hp hi⟩
  · obtain ⟨i, hi, rfl⟩ := exists_alphaPow_eq hp ha
    rw [logAt_build_alphaPow hp hi]
    exact ⟨hi, expAt_build p hi⟩

/-- Settles O37: byte by byte, the table form and the bit-serial form hold the same register. -/
theorem tableCrcEqualsBitSerialCrc : Obligations.TableCrcEqualsBitSerialCrc := by
  unfold Obligations.TableCrcEqualsBitSerialCrc
  intro p bytes
  have hbyte : crcByte p (Tables.build p) = crcSerialByte p := funext₂ (crcByte_build p)
  rw [crc16, crcSerial, hbyte]

/-- Settles O38: both ends of CRC16 are an `endCommand`, and over built tables the result is the bit-serial CRC. -/
theorem crc16CommandResult : Obligations.Crc16CommandResult := by
  unfold Obligations.Crc16CommandResult
  refine ⟨decodeWord_encode .crc16, fun s ⟨_, htables⟩ => ⟨fun hfit => ?_, fun hbeyond => ?_⟩⟩
  · refine ⟨_, exec_crc16_of_fits hfit, rfl, ?_⟩
    rw [htables, tableCrcEqualsBitSerialCrc]
    exact EndsWith.endCommand s _ _ _
  · exact ⟨_, exec_crc16_of_beyond hbeyond, rfl, EndsWith.endCommand s _ _ _⟩

end Sys2Proof.Machine

/-! PROOFS. The statements about GF(256): multiplying by `α^i` is multiplying `i` times by z, in the tables and without
them; every nonzero byte is such a power, and so the laws of a field are facts about the iterates of one linear map. -/

namespace Sys2Proof.Machine

/-! ### Multiplication by z is linear -/

theorem ite_xor_eq_xor_ite (x y : Bool) (q : Byte) :
    (if x ^^ y then q else 0#8) = (if x then q else 0#8) ^^^ (if y then q else 0#8) := by
  cases x <;> cases y <;> simp

theorem timesZ_xor (poly : BitVec 9) (a b : Byte) : timesZ poly (a ^^^ b) = timesZ poly a ^^^ timesZ poly b := by
  simp only [← xtime_eq_timesZ, xtime, BitVec.getLsbD_xor, BitVec.shiftLeft_xor_distrib, ite_xor_eq_xor_ite]
  ac_rfl

theorem timesZ_iterate_xor (poly : BitVec 9) (i : Nat) (a b : Byte) :
    (timesZ poly)^[i] (a ^^^ b) = (timesZ poly)^[i] a ^^^ (timesZ poly)^[i] b :=
  Function.Semiconj₂.iterate (timesZ_xor poly) i a b

/-- No bit leaves a byte in the first seven multiplications of 1. -/
theorem alphaPow_eq_twoPow (poly : BitVec 9) {i : Nat} (hi : i < 8) : alphaPow poly i = BitVec.twoPow 8 i := by
  induction i with
  | zero => rfl
  | succ i ih =>
    have htop : (BitVec.twoPow 8 i).getLsbD 7 = false := by simp; omega
    rw [alphaPow_succ, ih (by omega), ← xtime_eq_timesZ, xtime, htop, BitVec.twoPow_eq, BitVec.twoPow_eq,
      BitVec.shiftLeft_add]
    simp

/-! ### The carry-less product, modulo any polynomial -/

theorem fieldMul_zero_left (poly : BitVec 9) (b : Byte) : fieldMul poly 0#8 b = 0#8 :=
  List.foldl_fixed' (fun i => by simp [timesZ_iterate_zero]) _

theorem fieldMul_zero_right (poly : BitVec 9) (a : Byte) : fieldMul poly a 0#8 = 0#8 :=
  List.foldl_fixed' (fun i => by simp) _

/-- The first `n` rounds of the product add up the low `n` bits of the second factor. -/
theorem getLsbD_foldl_twoPow (b : Byte) (n j : Nat) :
    ((List.range n).foldl (fun acc i => if b.getLsbD i then acc ^^^ BitVec.twoPow 8 i else acc) 0#8).getLsbD j
      = (decide (j < n) && b.getLsbD j) := by
  induction n with
  | zero => simp
  | succ n ih =>
    rw [List.range_succ, List.foldl_append, List.foldl_cons, List.foldl_nil]
    obtain rfl | hne := eq_or_ne j n
    · cases hbit : b.getLsbD j with
      | false => simp [ih, hbit]
      | true => simpa [ih, hbit] using BitVec.lt_of_getLsbD hbit
    · have hlt : j < n + 1 ↔ j < n := by omega
      cases hbit : b.getLsbD n <;> simp [ih, hlt, hne.symm]

theorem fieldMul_one_left (poly : BitVec 9) (b : Byte) : fieldMul poly 1#8 b = b := by
  have hpowers : fieldMul poly 1#8 b
      = (List.range 8).foldl (fun acc i => if b.getLsbD i then acc ^^^ BitVec.twoPow 8 i else acc) 0#8 :=
    List.foldl_ext _ _ _ fun acc i hi => by rw [← alphaPow_eq_twoPow poly (List.mem_range.1 hi), alphaPow]
  apply BitVec.eq_of_getLsbD_eq
  intro j hj
  rw [hpowers, getLsbD_foldl_twoPow, decide_eq_true hj, Bool.true_and]

theorem fieldMul_timesZ_left (poly : BitVec 9) (a b : Byte) :
    fieldMul poly (timesZ poly a) b = timesZ poly (fieldMul poly a b) := by
  have hzero : timesZ poly 0#8 = 0#8 := timesZ_iterate_zero poly 1
  rw [fieldMul, fieldMul, ← List.foldl_hom (timesZ poly), hzero]
  intro acc i
  rw [apply_ite (timesZ poly), timesZ_xor, ← Function.iterate_succ_apply, Function.iterate_succ_apply']

theorem fieldMul_iterate_left (poly : BitVec 9) (i : Nat) (a b : Byte) :
    fieldMul poly ((timesZ poly)^[i] a) b = (timesZ poly)^[i] (fieldMul poly a b) :=
  Function.Semiconj.iterate_right (f := fun x => fieldMul poly x b) (fun x => fieldMul_timesZ_left poly x b) i a

/-- Multiplying by `α^i` is multiplying `i` times by z. -/
theorem fieldMul_alphaPow_left (poly : BitVec 9) (i : Nat) (b : Byte) :
    fieldMul poly (alphaPow poly i) b = (timesZ poly)^[i] b := by
  rw [alphaPow, fieldMul_iterate_left, fieldMul_one_left]

theorem fieldMul_alphaPow (poly : BitVec 9) (i j : Nat) :
    fieldMul poly (alphaPow poly i) (alphaPow poly j) = alphaPow poly (i + j) := by
  rw [fieldMul_alphaPow_left, alphaPow, alphaPow, Function.iterate_add_apply]

/-! ### The tables, whatever they hold -/

@[simp] theorem gfMul_zero_left (T : Tables) (b : Byte) : gfMul T 0#8 b = 0#8 := if_pos (.inl rfl)

@[simp] theorem gfMul_zero_right (T : Tables) (a : Byte) : gfMul T a 0#8 = 0#8 := if_pos (.inr rfl)

@[simp] theorem gfDiv_zero_left (T : Tables) (b : Byte) : gfDiv T 0#8 b = 0#8 := if_pos rfl

/-- Horner's scheme at 0 keeps nothing but the coefficient it has just read (R156, R157). -/
theorem polyEval_zero (T : Tables) (q : List Byte) : polyEval T q 0#8 = q.getLastD 0#8 := by
  induction q using List.reverseRecOn with
  | nil => rfl
  | append_singleton q c => simp [polyEval]

/-! ### Modulo a primitive polynomial -/

section

variable {p : Params} (hp : p.wellFormed = true)
include hp

/-- Exponents of α count modulo 255 (R151). -/
theorem alphaPow_mod (i : Nat) : alphaPow p.rsGfPoly (i % 255) = alphaPow p.rsGfPoly i :=
  Function.IsPeriodicPt.iterate_mod_apply (alphaPow_255 hp) i

theorem alphaPow_add_255 (i : Nat) : alphaPow p.rsGfPoly (i + 255) = alphaPow p.rsGfPoly i := by
  rw [← alphaPow_mod hp, Nat.add_mod_right, alphaPow_mod hp]

/-- α has no power 0, whatever the exponent. -/
theorem alphaPow_ne_zero_all (i : Nat) : alphaPow p.rsGfPoly i ≠ 0#8 := by
  rw [← alphaPow_mod hp]
  exact alphaPow_ne_zero hp (Nat.mod_lt i (by decide))

theorem expAt_build_mod (i : Nat) : (Tables.build p).expAt (i % 255) = alphaPow p.rsGfPoly i := by
  rw [expAt_build p (Nat.mod_lt i (by decide)), alphaPow_mod hp]

theorem logAt_build_alphaPow_mod (i : Nat) : (Tables.build p).logAt (alphaPow p.rsGfPoly i) = i % 255 := by
  rw [← alphaPow_mod hp, logAt_build_alphaPow hp (Nat.mod_lt i (by decide))]

/-- A byte is 0 or a power of α (R151). -/
theorem eq_zero_or_alphaPow (a : Byte) : a = 0#8 ∨ ∃ i, a = alphaPow p.rsGfPoly i := by
  refine or_iff_not_imp_left.2 fun ha => ?_
  obtain ⟨i, -, hi⟩ := exists_alphaPow_eq hp ha
  exact ⟨i, hi.symm⟩

theorem gfMul_build_alphaPow (i j : Nat) :
    gfMul (Tables.build p) (alphaPow p.rsGfPoly i) (alphaPow p.rsGfPoly j) = alphaPow p.rsGfPoly (i + j) := by
  rw [gfMul, if_neg (by simp [alphaPow_ne_zero_all hp]), logAt_build_alphaPow_mod hp, logAt_build_alphaPow_mod hp,
    ← Nat.add_mod, expAt_build_mod hp]

theorem gfDiv_build_alphaPow (i : Nat) {j : Nat} (hj : j < 255) :
    gfDiv (Tables.build p) (alphaPow p.rsGfPoly i) (alphaPow p.rsGfPoly j) = alphaPow p.rsGfPoly (i + (255 - j)) := by
  rw [gfDiv, if_neg (alphaPow_ne_zero_all hp i), logAt_build_alphaPow_mod hp, logAt_build_alphaPow hp hj,
    Nat.mod_add_mod, expAt_build_mod hp]

/-- The product of the tables is the carry-less product, reduced (R153). -/
theorem gfMul_build : gfMul (Tables.build p) = fieldMul p.rsGfPoly := by
  funext a b
  obtain rfl | ⟨i, rfl⟩ := eq_zero_or_alphaPow hp a
  · rw [gfMul_zero_left, fieldMul_zero_left]
  obtain rfl | ⟨j, rfl⟩ := eq_zero_or_alphaPow hp b
  · rw [gfMul_zero_right, fieldMul_zero_right]
  · rw [gfMul_build_alphaPow hp, fieldMul_alphaPow]

theorem polyEval_build : polyEval (Tables.build p) = fieldEval p.rsGfPoly := by
  funext q x
  rw [polyEval, fieldEval, gfMul_build hp]

/-! ### The laws of the field -/

theorem fieldMul_comm (a b : Byte) : fieldMul p.rsGfPoly a b = fieldMul p.rsGfPoly b a := by
  obtain rfl | ⟨i, rfl⟩ := eq_zero_or_alphaPow hp a
  · rw [fieldMul_zero_left, fieldMul_zero_right]
  obtain rfl | ⟨j, rfl⟩ := eq_zero_or_alphaPow hp b
  · rw [fieldMul_zero_left, fieldMul_zero_right]
  · rw [fieldMul_alphaPow, fieldMul_alphaPow, Nat.add_comm]

theorem fieldMul_assoc (a b c : Byte) :
    fieldMul p.rsGfPoly (fieldMul p.rsGfPoly a b) c = fieldMul p.rsGfPoly a (fieldMul p.rsGfPoly b c) := by
  obtain rfl | ⟨i, rfl⟩ := eq_zero_or_alphaPow hp a
  · simp only [fieldMul_zero_left]
  · simp only [fieldMul_alphaPow_left, fieldMul_iterate_left]

theorem fieldMul_xor_right (a b c : Byte) :
    fieldMul p.rsGfPoly a (b ^^^ c) = fieldMul p.rsGfPoly a b ^^^ fieldMul p.rsGfPoly a c := by
  obtain rfl | ⟨i, rfl⟩ := eq_zero_or_alphaPow hp a
  · simp only [fieldMul_zero_left, BitVec.xor_self]
  · simp only [fieldMul_alphaPow_left, timesZ_iterate_xor]

/-- There are no divisors of 0: a product of two powers of α is one. -/
theorem fieldMul_eq_zero_iff (a b : Byte) : fieldMul p.rsGfPoly a b = 0#8 ↔ a = 0#8 ∨ b = 0#8 := by
  obtain rfl | ⟨i, rfl⟩ := eq_zero_or_alphaPow hp a
  · simp only [fieldMul_zero_left, true_or]
  obtain rfl | ⟨j, rfl⟩ := eq_zero_or_alphaPow hp b
  · simp only [fieldMul_zero_right, or_true]
  · simp only [fieldMul_alphaPow, alphaPow_ne_zero_all hp, or_self]

theorem fieldMul_gfDiv (a : Byte) {b : Byte} (hb : b ≠ 0#8) :
    fieldMul p.rsGfPoly (gfDiv (Tables.build p) a b) b = a := by
  obtain ⟨j, hj, rfl⟩ := exists_alphaPow_eq hp hb
  obtain rfl | ⟨i, rfl⟩ := eq_zero_or_alphaPow hp a
  · rw [gfDiv_zero_left, fieldMul_zero_left]
  · rw [gfDiv_build_alphaPow hp i hj, fieldMul_alphaPow, Nat.add_assoc, Nat.sub_add_cancel hj.le, alphaPow_add_255 hp]

theorem gfDiv_fieldMul (a : Byte) {b : Byte} (hb : b ≠ 0#8) :
    gfDiv (Tables.build p) (fieldMul p.rsGfPoly a b) b = a := by
  obtain ⟨j, hj, rfl⟩ := exists_alphaPow_eq hp hb
  obtain rfl | ⟨i, rfl⟩ := eq_zero_or_alphaPow hp a
  · rw [fieldMul_zero_left, gfDiv_zero_left]
  · rw [fieldMul_alphaPow, gfDiv_build_alphaPow hp _ hj, Nat.add_assoc, Nat.add_sub_cancel' hj.le, alphaPow_add_255 hp]

/-- Division by a nonzero byte gives the one quotient (R154). -/
theorem fieldMul_eq_iff_eq_gfDiv (a x : Byte) {b : Byte} (hb : b ≠ 0#8) :
    fieldMul p.rsGfPoly x b = a ↔ x = gfDiv (Tables.build p) a b := by
  constructor
  · rintro rfl
    exact (gfDiv_fieldMul hp x hb).symm
  · rintro rfl
    exact fieldMul_gfDiv hp a hb

theorem fieldMul_gfInv {a : Byte} (ha : a ≠ 0#8) : fieldMul p.rsGfPoly a (gfInv (Tables.build p) a) = 1#8 := by
  rw [fieldMul_comm hp, gfInv, fieldMul_gfDiv hp 1#8 ha]

end

/-! ### The commands -/

theorem exec_gfMul (s : State) :
    exec .gfMul s
      = .next (s.endCommand .eNone (zextByte (gfMul s.tables (byteOperand s.arg0) (byteOperand s.arg1))) 0#32) := rfl

section

variable {s : State}

/-- GF_DIV by a nonzero low byte (R161). -/
theorem exec_gfDiv_of_ne_zero (h : byteOperand s.arg1 ≠ 0#8) :
    exec .gfDiv s
      = .next (s.endCommand .eNone (zextByte (gfDiv s.tables (byteOperand s.arg0) (byteOperand s.arg1))) 0#32) :=
  congrArg _ (if_neg h)

/-- GF_DIV by a zero low byte (R161). -/
theorem exec_gfDiv_of_zero (h : byteOperand s.arg1 = 0#8) : exec .gfDiv s = .next (s.endCommand .eArg 0#32 0#32) :=
  congrArg _ (if_pos h)

/-- POLY_EVAL on a span that fits (R162). -/
theorem exec_polyEval_of_fits (h : s.offset + s.length ≤ s.params.bufSize) :
    exec .polyEval s
      = .next (s.endCommand .eNone
          (zextByte (polyEval s.tables (s.memRead s.offset s.length) (byteOperand s.arg2))) 0#32) :=
  congrArg _ (if_pos ((s.spanFits_iff _ _).2 h))

/-- POLY_EVAL on a span that reaches beyond BUF (R162, R246). -/
theorem exec_polyEval_of_beyond (h : s.params.bufSize < s.offset + s.length) :
    exec .polyEval s = .next (s.endCommand .eRange 0#32 0#32) :=
  congrArg _ (if_neg fun hfit => absurd ((s.spanFits_iff _ _).1 hfit) (by omega))

end

/-! ### The statements -/

/-- Settles O39: over built tables gf_mul is the carry-less product, which has the laws of a field because every nonzero
byte is a power of α. -/
theorem tableArithmeticIsAField : Obligations.TableArithmeticIsAField := by
  unfold Obligations.TableArithmeticIsAField
  intro p hp a b c q
  rw [gfMul_build hp]
  exact ⟨rfl, fieldMul_comm hp a b, fieldMul_assoc hp a b c, fieldMul_xor_right hp a b c, fieldMul_one_left _ a,
    fieldMul_zero_left _ a, fieldMul_gfInv hp, gfDiv_fieldMul hp a, fieldMul_eq_zero_iff hp a b, polyEval_zero _ q⟩

/-- Settles O40: the one end of GF_MUL, with the tables' product as the carry-less one. -/
theorem gfMulCommandResult : Obligations.GfMulCommandResult := by
  unfold Obligations.GfMulCommandResult
  refine ⟨decodeWord_encode .gfMul, fun s ⟨hp, htables⟩ => ⟨_, exec_gfMul s, rfl, ?_⟩⟩
  rw [htables, gfMul_build hp]
  exact EndsWith.endCommand s _ _ _

/-- Settles O41: the quotient of the tables is the only one, and a zero divisor ends GF_DIV before any division. -/
theorem gfDivCommandResult : Obligations.GfDivCommandResult := by
  unfold Obligations.GfDivCommandResult
  refine ⟨decodeWord_encode .gfDiv, fun s ⟨hp, htables⟩ => ⟨fun hne => ?_, fun hzero => ?_⟩⟩
  · refine ⟨_, _, exec_gfDiv_of_ne_zero hne, rfl, EndsWith.endCommand s _ _ _, fun x => ?_⟩
    rw [htables]
    exact fieldMul_eq_iff_eq_gfDiv hp _ x hne
  · exact ⟨_, exec_gfDiv_of_zero hzero, rfl, EndsWith.endCommand s _ _ _⟩

/-- Settles O42: both ends of POLY_EVAL are an `endCommand`, and the scheme uses the tables' product only. -/
theorem polyEvalCommandResult : Obligations.PolyEvalCommandResult := by
  unfold Obligations.PolyEvalCommandResult
  refine ⟨decodeWord_encode .polyEval, fun s ⟨hp, htables⟩ => ⟨fun hfit => ?_, fun hbeyond => ?_⟩⟩
  · refine ⟨_, exec_polyEval_of_fits hfit, rfl, ?_⟩
    rw [htables, polyEval_build hp]
    exact EndsWith.endCommand s _ _ _
  · exact ⟨_, exec_polyEval_of_beyond hbeyond, rfl, EndsWith.endCommand s _ _ _⟩

end Sys2Proof.Machine

/-! PROOFS. Power sums and the polynomials of the decoder, over any field: what a polynomial that annihilates the
syndromes is, the Berlekamp–Massey invariant, and Forney's formula. -/

namespace Sys2Proof.Machine

open Polynomial

section

variable {K : Type} [Field K]

/-! ### Power sums -/

/-- `Σ_d a_d · X_d^i`: what syndrome i is of an error with locators `X_d` (R174). -/
def powerSum (E : Finset ℕ) (x a : ℕ → K) (i : ℕ) : K := ∑ d ∈ E, a d * x d ^ i

variable {E : Finset ℕ} {x a : ℕ → K}

/-- Vandermonde: power sums of different locators vanish from the start only if every coefficient is 0. -/
theorem eq_zero_of_powerSum_eq_zero (hx : Set.InjOn x E) (h : ∀ i < E.card, powerSum E x a i = 0) {d : ℕ}
    (hd : d ∈ E) : a d = 0 := by
  have hdeg : (Lagrange.basis E x d).natDegree < E.card := by
    have := Finset.card_pos.2 ⟨d, hd⟩
    rw [Lagrange.natDegree_basis hx hd]
    omega
  calc a d = ∑ k ∈ E, a k * (Lagrange.basis E x d).eval (x k) := by
        rw [Finset.sum_eq_single_of_mem d hd, Lagrange.eval_basis_self hx hd, mul_one]
        intro k hk hkd
        rw [Lagrange.eval_basis_of_ne hkd.symm hk, mul_zero]
    _ = ∑ i ∈ Finset.range E.card, (Lagrange.basis E x d).coeff i * powerSum E x a i := by
        simp only [eval_eq_sum_range' hdeg, powerSum, Finset.mul_sum]
        rw [Finset.sum_comm]
        exact Finset.sum_congr rfl fun i _ => Finset.sum_congr rfl fun k _ => by ring
    _ = 0 := Finset.sum_eq_zero fun i hi => by rw [h i (Finset.mem_range.1 hi), mul_zero]

/-! ### Polynomials against the syndromes -/

/-- What an error leaves of the syndromes: the polynomial `S` has `N` power sums as its coefficients. -/
structure IsSyndromeOf (S : K[X]) (N : ℕ) (E : Finset ℕ) (x a : ℕ → K) : Prop where
  coeff_eq : ∀ i < N, S.coeff i = powerSum E x a i
  injOn : Set.InjOn x E
  locator_ne_zero : ∀ d ∈ E, x d ≠ 0
  value_ne_zero : ∀ d ∈ E, a d ≠ 0

theorem coeff_mul_eq_sum_range (Λ S : K[X]) (n : ℕ) :
    (Λ * S).coeff n = ∑ i ∈ Finset.range (n + 1), Λ.coeff i * S.coeff (n - i) := by
  rw [coeff_mul, Finset.Nat.sum_antidiagonal_eq_sum_range_succ_mk]

variable {S Λ : K[X]} {N : ℕ}

/-- Beyond its degree, a polynomial takes power sums to power sums, each value times the polynomial's at the inverse
locator. -/
theorem IsSyndromeOf.coeff_mul_eq (hS : IsSyndromeOf S N E x a) {i : ℕ} (hi : i < N) (hdeg : Λ.natDegree ≤ i) :
    (Λ * S).coeff i = powerSum E x (fun d => a d * Λ.eval (x d)⁻¹) i := by
  have hterm : ∀ d ∈ E, a d * Λ.eval (x d)⁻¹ * x d ^ i
      = ∑ j ∈ Finset.range (i + 1), Λ.coeff j * (a d * x d ^ (i - j)) := by
    intro d hd
    rw [eval_eq_sum_range' (Nat.lt_succ_of_le hdeg), Finset.mul_sum, Finset.sum_mul]
    refine Finset.sum_congr rfl fun j hj => ?_
    have hji : j ≤ i := Nat.lt_succ_iff.1 (Finset.mem_range.1 hj)
    rw [pow_sub₀ _ (hS.locator_ne_zero d hd) hji, inv_pow]
    ring
  rw [coeff_mul_eq_sum_range, powerSum, Finset.sum_congr rfl hterm, Finset.sum_comm]
  refine Finset.sum_congr rfl fun j _ => ?_
  rw [hS.coeff_eq _ (by omega), powerSum, Finset.mul_sum]

/-- A polynomial that annihilates enough syndromes in a row has every inverse locator as a root. -/
theorem IsSyndromeOf.eval_eq_zero (hS : IsSyndromeOf S N E x a) {ℓ n : ℕ} (hdeg : Λ.natDegree ≤ ℓ)
    (hvanish : ∀ i, ℓ ≤ i → i < n → (Λ * S).coeff i = 0) (hlen : ℓ + E.card ≤ n) (hn : n ≤ N) {d : ℕ} (hd : d ∈ E) :
    Λ.eval (x d)⁻¹ = 0 := by
  have hsum : ∀ i < E.card, powerSum E x (fun d => a d * Λ.eval (x d)⁻¹ * x d ^ ℓ) i = 0 := by
    intro i hi
    have hshift : powerSum E x (fun d => a d * Λ.eval (x d)⁻¹ * x d ^ ℓ) i
        = powerSum E x (fun d => a d * Λ.eval (x d)⁻¹) (ℓ + i) :=
      Finset.sum_congr rfl fun d _ => by rw [pow_add, mul_assoc]
    rw [hshift, ← hS.coeff_mul_eq (by omega) (by omega), hvanish _ (by omega) (by omega)]
  have hzero := eq_zero_of_powerSum_eq_zero hS.injOn hsum hd
  simpa [hS.value_ne_zero d hd, hS.locator_ne_zero d hd] using hzero

/-- So a polynomial that annihilates those syndromes annihilates the next one too (Massey). -/
theorem IsSyndromeOf.next_coeff_eq_zero (hS : IsSyndromeOf S N E x a) {ℓ n : ℕ} (hdeg : Λ.natDegree ≤ ℓ)
    (hvanish : ∀ i, ℓ ≤ i → i < n → (Λ * S).coeff i = 0) (hlen : ℓ + E.card ≤ n) (hn : n < N) :
    (Λ * S).coeff n = 0 := by
  rw [hS.coeff_mul_eq hn (by omega)]
  refine Finset.sum_eq_zero fun d hd => ?_
  simp only [hS.eval_eq_zero hdeg hvanish hlen hn.le hd, mul_zero, zero_mul]

/-! ### The Berlekamp–Massey loop -/

/-- The invariant of the loop after `n` rounds (R176), `Q` being `x^m · B`.  It is said of `1 + x·S`, for which the
start `Λ = B = 1` is no special case. -/
structure BmInvariant (S Λ Q : K[X]) (ℓ n : ℕ) (b : K) : Prop where
  coeff_zero : Λ.coeff 0 = 1
  ell_le : ℓ ≤ n
  natDegree_le : Λ.natDegree ≤ ℓ
  vanish : ∀ i, ℓ < i → i ≤ n → (Λ * (1 + X * S)).coeff i = 0
  prev_coeff_zero : Q.coeff 0 = 0
  prev_natDegree_le : Q.natDegree ≤ n + 1 - ℓ
  prev_vanish : ∀ i, n + 1 - ℓ < i → i ≤ n → (Q * (1 + X * S)).coeff i = 0
  prev_coeff : (Q * (1 + X * S)).coeff (n + 1) = b
  disc_ne_zero : b ≠ 0

theorem BmInvariant.init (S : K[X]) : BmInvariant S 1 X 0 0 1 where
  coeff_zero := coeff_one_zero
  ell_le := le_rfl
  natDegree_le := natDegree_one.le
  vanish i h0 hi := by omega
  prev_coeff_zero := coeff_X_zero
  prev_natDegree_le := natDegree_X.le
  prev_vanish i h1 h0 := by omega
  prev_coeff := by rw [coeff_X_mul]; simp
  disc_ne_zero := one_ne_zero

theorem coeff_mul_one_add_X_mul (Λ S : K[X]) (i : ℕ) :
    (Λ * (1 + X * S)).coeff (i + 1) = Λ.coeff (i + 1) + (Λ * S).coeff i := by
  rw [mul_add, mul_one, coeff_add, mul_left_comm, coeff_X_mul]

section

variable {Q : K[X]} {ℓ n : ℕ} {b d : K}

theorem BmInvariant.coeff_mul (h : BmInvariant S Λ Q ℓ n b) {i : ℕ} (hi : ℓ ≤ i) :
    (Λ * (1 + X * S)).coeff (i + 1) = (Λ * S).coeff i := by
  rw [coeff_mul_one_add_X_mul, coeff_eq_zero_of_natDegree_lt (by have := h.natDegree_le; omega), zero_add]

theorem BmInvariant.syndromes_vanish (h : BmInvariant S Λ Q ℓ n b) (i : ℕ) (hℓ : ℓ ≤ i) (hn : i < n) :
    (Λ * S).coeff i = 0 := by
  rw [← h.coeff_mul hℓ, h.vanish _ (by omega) (by omega)]

theorem natDegree_X_mul_le (Q : K[X]) : (X * Q).natDegree ≤ Q.natDegree + 1 :=
  natDegree_mul_le.trans (by rw [natDegree_X, add_comm])

/-- `Λ ⊖ (d/b)·Q`, of which the discrepancy is taken off: nothing else of the invariant is lost. -/
theorem BmInvariant.corrected (h : BmInvariant S Λ Q ℓ n b) (hd : (Λ * S).coeff n = d) {ℓ' : ℕ} (hle : ℓ ≤ ℓ')
    (hle' : n + 1 - ℓ ≤ ℓ') :
    (Λ - C (d / b) * Q).coeff 0 = 1 ∧ (Λ - C (d / b) * Q).natDegree ≤ ℓ'
      ∧ ∀ i, ℓ' < i → i ≤ n + 1 → ((Λ - C (d / b) * Q) * (1 + X * S)).coeff i = 0 := by
  refine ⟨?_, ?_, fun i hi hin => ?_⟩
  · rw [coeff_sub, coeff_C_mul, h.coeff_zero, h.prev_coeff_zero, mul_zero, sub_zero]
  · exact (natDegree_sub_le _ _).trans
      (max_le (h.natDegree_le.trans hle) ((natDegree_C_mul_le _ _).trans (h.prev_natDegree_le.trans hle')))
  · rw [sub_mul, mul_assoc, coeff_sub, coeff_C_mul]
    obtain rfl | hlt := hin.eq_or_lt
    · rw [h.prev_coeff, h.coeff_mul h.ell_le, hd, div_mul_cancel₀ _ h.disc_ne_zero, sub_self]
    · rw [h.vanish i (by omega) (by omega), h.prev_vanish i (by omega) (by omega), mul_zero, sub_zero]

/-- A round that keeps ℓ keeps `B` too, one degree further up. -/
theorem BmInvariant.shift (h : BmInvariant S Λ Q ℓ n b) {Λ' : K[X]} (hzero : Λ'.coeff 0 = 1)
    (hdeg : Λ'.natDegree ≤ ℓ) (hvanish : ∀ i, ℓ < i → i ≤ n + 1 → (Λ' * (1 + X * S)).coeff i = 0) :
    BmInvariant S Λ' (X * Q) ℓ (n + 1) b where
  coeff_zero := hzero
  ell_le := h.ell_le.trans n.le_succ
  natDegree_le := hdeg
  vanish := hvanish
  prev_coeff_zero := by simp
  prev_natDegree_le := by
    have hprev := h.prev_natDegree_le
    have hℓ := h.ell_le
    exact (natDegree_X_mul_le Q).trans (by omega)
  prev_vanish i hi hin := by
    have hℓ := h.ell_le
    obtain ⟨j, rfl⟩ : ∃ j, i = j + 1 := ⟨i - 1, by omega⟩
    rw [mul_assoc, coeff_X_mul, h.prev_vanish j (by omega) (by omega)]
  prev_coeff := by rw [mul_assoc, coeff_X_mul, h.prev_coeff]
  disc_ne_zero := h.disc_ne_zero

/-- A round without a discrepancy. -/
theorem BmInvariant.keep (h : BmInvariant S Λ Q ℓ n b) (hd : (Λ * S).coeff n = 0) :
    BmInvariant S Λ (X * Q) ℓ (n + 1) b := by
  refine h.shift h.coeff_zero h.natDegree_le fun i hi hin => ?_
  obtain rfl | hlt := hin.eq_or_lt
  · rw [h.coeff_mul h.ell_le, hd]
  · exact h.vanish i hi (by omega)

/-- A round with a discrepancy that the present length can take off. -/
theorem BmInvariant.adjust (h : BmInvariant S Λ Q ℓ n b) (hd : (Λ * S).coeff n = d) (hℓ : n < 2 * ℓ) :
    BmInvariant S (Λ - C (d / b) * Q) (X * Q) ℓ (n + 1) b := by
  obtain ⟨hzero, hdeg, hvanish⟩ := h.corrected hd le_rfl (by omega)
  exact h.shift hzero hdeg hvanish

/-- A round with a discrepancy that needs a longer Λ: the Λ before it is the next `B`. -/
theorem BmInvariant.lengthen (h : BmInvariant S Λ Q ℓ n b) (hd : (Λ * S).coeff n = d) (hne : d ≠ 0)
    (hℓ : 2 * ℓ ≤ n) : BmInvariant S (Λ - C (d / b) * Q) (X * Λ) (n + 1 - ℓ) (n + 1) d := by
  obtain ⟨hzero, hdeg, hvanish⟩ := h.corrected hd (by omega) le_rfl
  exact {
    coeff_zero := hzero
    ell_le := by omega
    natDegree_le := hdeg
    vanish := hvanish
    prev_coeff_zero := by simp
    prev_natDegree_le := (natDegree_X_mul_le Λ).trans (by have := h.natDegree_le; omega)
    prev_vanish := fun i hi hin => by
      obtain ⟨j, rfl⟩ : ∃ j, i = j + 1 := ⟨i - 1, by omega⟩
      rw [mul_assoc, coeff_X_mul, h.vanish j (by omega) (by omega)]
    prev_coeff := by rw [mul_assoc, coeff_X_mul, h.coeff_mul h.ell_le, hd]
    disc_ne_zero := hne }

/-- While no more than ℓ errors can be told from fewer, a discrepancy shows that there are more (Massey). -/
theorem BmInvariant.lt_card (h : BmInvariant S Λ Q ℓ n b) (hS : IsSyndromeOf S N E x a) (hn : n < N)
    (hd : (Λ * S).coeff n ≠ 0) : n + 1 - ℓ ≤ E.card := by
  by_contra hlt
  exact hd (hS.next_coeff_eq_zero h.natDegree_le h.syndromes_vanish (by omega) hn)

end

/-! ### The error locator -/

/-- `Λ` locates the errors: its degree is their number and its roots are the inverse locators. -/
structure IsLocatorOf (Λ : K[X]) (E : Finset ℕ) (x : ℕ → K) : Prop where
  ne_zero : Λ ≠ 0
  natDegree_eq : Λ.natDegree = E.card
  eval_eq_zero : ∀ d ∈ E, Λ.eval (x d)⁻¹ = 0

theorem IsSyndromeOf.inv_injOn (hS : IsSyndromeOf S N E x a) : Set.InjOn (fun d => (x d)⁻¹) E :=
  fun _ hd _ hk h => hS.injOn hd hk (inv_injective h)

/-- A polynomial of lower degree than there are different arguments at which it is 0 is the zero polynomial. -/
theorem eq_zero_of_eval_on_eq_zero {y : ℕ → K} (hy : Set.InjOn y E) (h : ∀ d ∈ E, Λ.eval (y d) = 0)
    (hdeg : Λ.natDegree < E.card) : Λ = 0 := by
  classical
  refine eq_zero_of_natDegree_lt_card_of_eval_eq_zero' Λ (E.image y) ?_ ?_
  · exact Finset.forall_mem_image.2 h
  · rwa [Finset.card_image_of_injOn hy]

/-- When the loop ends with a length that the number of errors bounds, Λ locates them. -/
theorem BmInvariant.isLocatorOf {Q : K[X]} {ℓ : ℕ} {b : K} (h : BmInvariant S Λ Q ℓ N b)
    (hS : IsSyndromeOf S N E x a) (hℓ : ℓ ≤ E.card) (hE : 2 * E.card ≤ N) : IsLocatorOf Λ E x := by
  have hne : Λ ≠ 0 := by
    rintro rfl
    exact zero_ne_one h.coeff_zero
  have hroot : ∀ d ∈ E, Λ.eval (x d)⁻¹ = 0 := fun d hd =>
    hS.eval_eq_zero h.natDegree_le h.syndromes_vanish (by omega) le_rfl hd
  have hcard : E.card ≤ Λ.natDegree := not_lt.1 fun hlt => hne (eq_zero_of_eval_on_eq_zero hS.inv_injOn hroot hlt)
  exact ⟨hne, (h.natDegree_le.trans hℓ).antisymm hcard, hroot⟩

/-- A locator has no root beside the inverse locators. -/
theorem IsLocatorOf.mem_of_eval_eq_zero (h : IsLocatorOf Λ E x) {k : ℕ} (hx : Set.InjOn x (insert k (E : Set ℕ)))
    (hk : Λ.eval (x k)⁻¹ = 0) : k ∈ E := by
  classical
  by_contra hnot
  refine h.ne_zero (eq_zero_of_eval_on_eq_zero (E := insert k E) (y := fun d => (x d)⁻¹) ?_ ?_ ?_)
  · rw [Finset.coe_insert]
    exact fun _ hi _ hj hij => hx hi hj (inv_injective hij)
  · exact (Finset.forall_mem_insert _ _ _).2 ⟨hk, h.eval_eq_zero⟩
  · rw [Finset.card_insert_of_notMem hnot, h.natDegree_eq]
    exact Nat.lt_succ_self _

/-! ### Forney's formula -/

/-- `Q` is `Λ` with the factor of one locator taken out. -/
def IsCofactor (Λ : K[X]) (c : K) (Q : K[X]) : Prop := Λ = (1 - C c * X) * Q

theorem exists_isCofactor {c : K} (hc : c ≠ 0) (h : Λ.eval c⁻¹ = 0) : ∃ Q, IsCofactor Λ c Q := by
  obtain ⟨R, rfl⟩ := dvd_iff_isRoot.2 h
  refine ⟨C (-c⁻¹) * R, ?_⟩
  have hfactor : (1 - C c * X) * C (-c⁻¹) = X - C c⁻¹ := by
    have hone : C c * C c⁻¹ = (1 : K[X]) := by rw [← C_mul, mul_inv_cancel₀ hc, C_1]
    rw [C_neg]
    linear_combination X * hone
  rw [IsCofactor, ← mul_assoc, hfactor]

section

variable {Q : K[X]} {c : K}

theorem IsCofactor.eval (h : IsCofactor Λ c Q) (y : K) : Λ.eval y = (1 - c * y) * Q.eval y := by
  rw [h]; simp

/-- `1/(1 − c·x)` times Λ is the cofactor, coefficient by coefficient. -/
theorem IsCofactor.sum_pow_mul_coeff (h : IsCofactor Λ c Q) (j : ℕ) :
    ∑ i ∈ Finset.range (j + 1), c ^ i * Λ.coeff (j - i) = Q.coeff j := by
  have hcoeff : ∀ i, Λ.coeff (i + 1) = Q.coeff (i + 1) - c * Q.coeff i := by
    intro i
    rw [h, sub_mul, one_mul, mul_assoc, coeff_sub, coeff_C_mul, coeff_X_mul]
  induction j with
  | zero => rw [h]; simp [sub_mul, mul_assoc]
  | succ j ih =>
    rw [Finset.sum_range_succ', pow_zero, one_mul, Nat.sub_zero, hcoeff, ← ih, Finset.mul_sum]
    simp only [Nat.add_sub_add_right, pow_succ', mul_assoc]
    ring

theorem IsCofactor.natDegree_lt (h : IsCofactor Λ c Q) (hc : c ≠ 0) (hΛ : Λ ≠ 0) : Q.natDegree < Λ.natDegree := by
  have hlin : (1 - C c * X : K[X]) = C (-c) * X + C 1 := by simp [sub_eq_neg_add]
  have hdeg : (1 - C c * X : K[X]).natDegree = 1 := by
    rw [hlin, natDegree_linear (neg_ne_zero.2 hc)]
  have hQ : Q ≠ 0 := by rintro rfl; exact hΛ (by rw [h, mul_zero])
  have hlin0 : (1 - C c * X : K[X]) ≠ 0 := ne_zero_of_natDegree_gt (n := 0) (by omega)
  have hmul : Λ.natDegree = (1 - C c * X : K[X]).natDegree + Q.natDegree := by
    conv_lhs => rw [h]
    exact natDegree_mul hlin0 hQ
  omega

/-- At the root of the factor, Λ' is the cofactor up to the factor's own derivative. -/
theorem IsCofactor.eval_derivative (h : IsCofactor Λ c Q) (hc : c ≠ 0) :
    Λ.derivative.eval c⁻¹ = -c * Q.eval c⁻¹ := by
  rw [h]
  simp [mul_inv_cancel₀ hc]

end

section

variable (hS : IsSyndromeOf S N E x a) (hΛ : IsLocatorOf Λ E x)
include hS hΛ

/-- A cofactor keeps the roots of the other locators. -/
theorem IsCofactor.eval_eq_zero {k d : ℕ} {Q : K[X]} (hQ : IsCofactor Λ (x k) Q) (hk : k ∈ E) (hd : d ∈ E)
    (hne : d ≠ k) : Q.eval (x d)⁻¹ = 0 := by
  have heval := hQ.eval (x d)⁻¹
  rw [hΛ.eval_eq_zero d hd, eq_comm, mul_eq_zero] at heval
  refine heval.resolve_left fun h => hne (hS.injOn hd hk ?_)
  rw [← div_eq_mul_inv, sub_eq_zero] at h
  exact (eq_of_div_eq_one h.symm).symm

/-- It has no root of its own left: with one more it would have too many for its degree. -/
theorem IsCofactor.eval_ne_zero {k : ℕ} {Q : K[X]} (hQ : IsCofactor Λ (x k) Q) (hk : k ∈ E) :
    Q.eval (x k)⁻¹ ≠ 0 := by
  intro hzero
  have hroot : ∀ d ∈ E, Q.eval (x d)⁻¹ = 0 := by
    intro d hd
    obtain rfl | hne := eq_or_ne d k
    · exact hzero
    · exact hQ.eval_eq_zero hS hΛ hk hd hne
  have hlt := hQ.natDegree_lt (hS.locator_ne_zero k hk) hΛ.ne_zero
  have hQ0 : Q = 0 := eq_zero_of_eval_on_eq_zero hS.inv_injOn hroot (by rwa [← hΛ.natDegree_eq])
  exact hΛ.ne_zero (by rw [hQ, hQ0, mul_zero])

variable (hE : E.card ≤ N) {Ω : K[X]} (hΩ : ∀ j, Ω.coeff j = if j < N then (S * Λ).coeff j else 0)
include hE hΩ

/-- Ω, the product of the syndromes and Λ cut off at `x^N`, is a sum of cofactors: one term for each error. -/
theorem evaluator_eq_sum_cofactors {Q : ℕ → K[X]} (hQ : ∀ d ∈ E, IsCofactor Λ (x d) (Q d)) :
    Ω = ∑ d ∈ E, C (a d) * Q d := by
  ext j
  simp only [hΩ, finsetSum_coeff, coeff_C_mul]
  split_ifs with hj
  · have hterm : ∀ d ∈ E, a d * (Q d).coeff j = ∑ i ∈ Finset.range (j + 1), a d * x d ^ i * Λ.coeff (j - i) := by
      intro d hd
      rw [← (hQ d hd).sum_pow_mul_coeff j, Finset.mul_sum]
      simp only [mul_assoc]
    rw [coeff_mul_eq_sum_range, Finset.sum_congr rfl hterm, Finset.sum_comm]
    refine Finset.sum_congr rfl fun i hi => ?_
    have hij := Finset.mem_range.1 hi
    rw [hS.coeff_eq i (by omega), powerSum, Finset.sum_mul]
  · refine (Finset.sum_eq_zero fun d hd => ?_).symm
    have hlt := (hQ d hd).natDegree_lt (hS.locator_ne_zero d hd) hΛ.ne_zero
    rw [hΛ.natDegree_eq] at hlt
    rw [coeff_eq_zero_of_natDegree_lt (by omega), mul_zero]

/-- Forney: at an inverse locator, Ω over Λ' is the value over the locator, up to sign (R176). -/
theorem forney_formula {k : ℕ} (hk : k ∈ E) :
    Λ.derivative.eval (x k)⁻¹ ≠ 0
      ∧ Ω.eval (x k)⁻¹ / Λ.derivative.eval (x k)⁻¹ = -(a k * (x k)⁻¹) := by
  have hx : x k ≠ 0 := hS.locator_ne_zero k hk
  choose! Q hQ using fun d hd => exists_isCofactor (hS.locator_ne_zero d hd) (hΛ.eval_eq_zero d hd)
  have hQk : (Q k).eval (x k)⁻¹ ≠ 0 := (hQ k hk).eval_ne_zero hS hΛ hk
  have hΩk : Ω.eval (x k)⁻¹ = a k * (Q k).eval (x k)⁻¹ := by
    rw [evaluator_eq_sum_cofactors hS hΛ hE hΩ hQ, eval_finsetSum, Finset.sum_eq_single_of_mem k hk]
    · rw [eval_mul, eval_C]
    · intro d hd hdk
      rw [eval_mul, (hQ d hd).eval_eq_zero hS hΛ hd hk hdk.symm, mul_zero]
  rw [(hQ k hk).eval_derivative hx, hΩk]
  refine ⟨mul_ne_zero (neg_ne_zero.2 hx) hQk, ?_⟩
  rw [mul_div_mul_right _ _ hQk, div_neg, div_eq_mul_inv]

end

end

end Sys2Proof.Machine

/-! PROOFS. The bytes as the elements of a field of characteristic 2, over any primitive polynomial: what the table
arithmetic and the model's polynomials and words are there. -/

namespace Sys2Proof.Machine

open Polynomial

/-! ### The field of symbols -/

/-- `ι` reads bytes as elements of a field: exclusive or is its sum, the carry-less product its product (R150). -/
structure IsSymbolField (poly : BitVec 9) {K : Type} [Field K] (ι : Byte → K) : Prop where
  injective : Function.Injective ι
  map_zero : ι 0#8 = 0
  map_one : ι 1#8 = 1
  map_xor : ∀ a b, ι (a ^^^ b) = ι a + ι b
  map_mul : ∀ a b, ι (fieldMul poly a b) = ι a * ι b

/-- A byte as an element of GF(256), which has an arithmetic of its own. -/
structure Symbol where
  byte : Byte

theorem fieldMul_ite_gfInv {p : Params} (hp : p.wellFormed = true) {a : Byte} (ha : a ≠ 0#8) :
    fieldMul p.rsGfPoly a (if a = 0#8 then 0#8 else gfInv (Tables.build p) a) = 1#8 := by
  rw [if_neg ha, fieldMul_gfInv hp ha]

/-- GF(256) by the laws of the carry-less product (R150, R157). -/
@[reducible] def symbolField {p : Params} (hp : p.wellFormed = true) : Field Symbol :=
  @Field.ofMinimalAxioms Symbol ⟨fun a b => ⟨a.byte ^^^ b.byte⟩⟩ ⟨fun a b => ⟨fieldMul p.rsGfPoly a.byte b.byte⟩⟩
    ⟨id⟩ ⟨fun a => ⟨if a.byte = 0#8 then 0#8 else gfInv (Tables.build p) a.byte⟩⟩ ⟨⟨0#8⟩⟩ ⟨⟨1#8⟩⟩
    (fun a b c => congrArg Symbol.mk (BitVec.xor_assoc a.byte b.byte c.byte))
    (fun a => congrArg Symbol.mk BitVec.zero_xor)
    (fun a => congrArg Symbol.mk BitVec.xor_self)
    (fun a b c => congrArg Symbol.mk (fieldMul_assoc hp a.byte b.byte c.byte))
    (fun a b => congrArg Symbol.mk (fieldMul_comm hp a.byte b.byte))
    (fun a => congrArg Symbol.mk (fieldMul_one_left _ a.byte))
    (fun a ha => congrArg Symbol.mk (fieldMul_ite_gfInv hp fun h => ha (congrArg Symbol.mk h)))
    (congrArg Symbol.mk (if_pos rfl))
    (fun a b c => congrArg Symbol.mk (fieldMul_xor_right hp a.byte b.byte c.byte))
    ⟨⟨0#8⟩, ⟨1#8⟩, fun h => absurd (congrArg Symbol.byte h) (by decide)⟩

/-- There is such a field for every primitive polynomial, and two is zero in it. -/
theorem exists_symbolField {p : Params} (hp : p.wellFormed = true) :
    ∃ (K : Type) (_ : Field K) (_ : CharP K 2) (ι : Byte → K), IsSymbolField p.rsGfPoly ι := by
  let := symbolField hp
  have hι : IsSymbolField p.rsGfPoly Symbol.mk :=
    ⟨fun a b h => congrArg Symbol.byte h, rfl, rfl, fun _ _ => rfl, fun _ _ => rfl⟩
  refine ⟨Symbol, inferInstance, CharTwo.of_one_ne_zero_of_two_eq_zero one_ne_zero ?_, Symbol.mk, hι⟩
  rw [← one_add_one_eq_two, ← hι.map_one, ← hι.map_xor, BitVec.xor_self, hι.map_zero]

section

variable {p : Params} {K : Type} [Field K] {ι : Byte → K} (hι : IsSymbolField p.rsGfPoly ι)
include hι

theorem IsSymbolField.eq_zero_iff {a : Byte} : ι a = 0 ↔ a = 0#8 := by
  rw [← hι.map_zero, hι.injective.eq_iff]

theorem IsSymbolField.map_alphaPow (i : ℕ) :
    ι (alphaPow p.rsGfPoly i) = ι (alphaPow p.rsGfPoly 1) ^ i := by
  induction i with
  | zero => rw [pow_zero, ← hι.map_one]; rfl
  | succ i ih => rw [← fieldMul_alphaPow, hι.map_mul, ih, pow_succ]

/-! ### The arithmetic of the tables -/

variable (hp : p.wellFormed = true)
include hp

theorem IsSymbolField.map_gfMul (a b : Byte) : ι (gfMul (Tables.build p) a b) = ι a * ι b := by
  rw [gfMul_build hp, hι.map_mul]

theorem IsSymbolField.map_gfDiv (a : Byte) {b : Byte} (hb : b ≠ 0#8) :
    ι (gfDiv (Tables.build p) a b) = ι a / ι b := by
  rw [eq_div_iff (mt hι.eq_zero_iff.1 hb), ← hι.map_mul, fieldMul_gfDiv hp a hb]

theorem IsSymbolField.map_gfInv {a : Byte} (ha : a ≠ 0#8) : ι (gfInv (Tables.build p) a) = (ι a)⁻¹ := by
  rw [gfInv, hι.map_gfDiv hp _ ha, hι.map_one, one_div]

theorem IsSymbolField.map_gfPow (a : Byte) (e : ℕ) : ι (gfPow (Tables.build p) a e) = ι a ^ e := by
  obtain rfl | he := eq_or_ne e 0
  · rw [gfPow, if_pos rfl, pow_zero, hι.map_one]
  · rw [gfPow, if_neg he]
    split_ifs with ha
    · rw [ha, hι.map_zero, zero_pow he]
    · obtain ⟨i, hi, rfl⟩ := exists_alphaPow_eq hp ha
      rw [logAt_build_alphaPow hp hi, expAt_build_mod hp, hι.map_alphaPow, pow_mul, ← hι.map_alphaPow]

theorem IsSymbolField.map_gfPowInt {a : Byte} (ha : a ≠ 0#8) (e : ℤ) :
    ι (gfPowInt (Tables.build p) a e) = ι a ^ e := by
  cases e with
  | ofNat e => rw [gfPowInt, hι.map_gfPow hp, Int.ofNat_eq_natCast, zpow_natCast]
  | negSucc e => rw [gfPowInt, hι.map_gfPow hp, hι.map_gfInv hp ha, zpow_negSucc, inv_pow]

end

/-! ### Locators -/

section

variable {p : Params} {K : Type} [Field K] {ι : Byte → K}

/-- `X_d = β^d`, the locator of degree d, β being `α^RS_PRIM` (R171, R176). -/
def locator (p : Params) (ι : Byte → K) (d : ℕ) : K := ι (alphaPow p.rsGfPoly p.rsPrim) ^ d

variable (hι : IsSymbolField p.rsGfPoly ι)
include hι

/-- A root of the generator to the power d is a locator to the power of the root's exponent. -/
theorem map_generatorRoot_pow (hp : p.wellFormed = true) (i d : ℕ) :
    ι (alphaPow p.rsGfPoly ((p.rsPrim * (p.rsFcr + i)) % 255)) ^ d = locator p ι d ^ (p.rsFcr + i) := by
  rw [alphaPow_mod hp, locator, hι.map_alphaPow (_ * _), hι.map_alphaPow p.rsPrim, ← pow_mul, ← pow_mul, ← pow_mul]
  congr 1
  ring

theorem locator_ne_zero (hp : p.wellFormed = true) (d : ℕ) : locator p ι d ≠ 0 :=
  pow_ne_zero d (mt hι.eq_zero_iff.1 (alphaPow_ne_zero_all hp _))

/-- β is primitive: RS_PRIM has no factor in common with 255 (R14, R171). -/
theorem locator_injOn (hp : p.wellFormed = true) : Set.InjOn (locator p ι) (Set.Iio 255) := by
  have hcoprime : Nat.gcd 255 p.rsPrim = 1 := by
    simp only [Params.wellFormed, Params.primOk, Bool.and_eq_true, decide_eq_true_eq] at hp
    rw [Nat.gcd_comm]
    tauto
  intro i hi j hj h
  have hpow : alphaPow p.rsGfPoly (p.rsPrim * i % 255) = alphaPow p.rsGfPoly (p.rsPrim * j % 255) := by
    apply hι.injective
    rw [alphaPow_mod hp, alphaPow_mod hp, hι.map_alphaPow, hι.map_alphaPow (_ * j), pow_mul, pow_mul,
      ← hι.map_alphaPow]
    exact h
  have hmod : p.rsPrim * i ≡ p.rsPrim * j [MOD 255] :=
    alphaPow_injOn hp (Nat.mod_lt _ (by decide)) (Nat.mod_lt _ (by decide)) hpow
  exact (Nat.ModEq.cancel_left_of_coprime hcoprime hmod).eq_of_lt_of_lt hi hj

theorem map_rsBeta (hp : p.wellFormed = true) : ι (rsBeta p (Tables.build p)) = ι (alphaPow p.rsGfPoly p.rsPrim) := by
  have hz : alphaPow p.rsGfPoly 1 = 0x02#8 := alphaPow_eq_twoPow _ (by decide)
  rw [rsBeta, hι.map_gfPow hp, ← hz, ← hι.map_alphaPow]

end

end Sys2Proof.Machine

/-! PROOFS. The statements about codewords and the encoder: a word is a sum over its degrees, two words differ by a
sum over the degrees of their errors, and the division of R173 keeps the value at every root of the generator. -/

namespace Sys2Proof.Machine

/-! ### Symbols by their degrees -/

/-- The symbol of a word at a degree: the last symbol has degree 0 (R172). -/
def symbolAt (r : List Byte) (d : ℕ) : Byte := r.reverse.getD d 0#8

theorem symbolAt_cons_lt (b : Byte) {r : List Byte} {d : ℕ} (hd : d < r.length) :
    symbolAt (b :: r) d = symbolAt r d := by
  simp [symbolAt, List.getElem?_append_left, hd]

theorem symbolAt_cons_length (b : Byte) (r : List Byte) : symbolAt (b :: r) r.length = b := by
  simp [symbolAt]

theorem symbolAt_eq_getD {r : List Byte} {d : ℕ} (hd : d < r.length) :
    symbolAt r d = r.getD (r.length - 1 - d) 0#8 := by
  rw [symbolAt, List.getD_eq_getElem?_getD, List.getD_eq_getElem?_getD, List.getElem?_reverse hd]

/-- Words of one length with the same symbol at every degree are the same. -/
theorem eq_of_symbolAt {r c : List Byte} (hlen : r.length = c.length)
    (h : ∀ d < r.length, symbolAt r d = symbolAt c d) : r = c := by
  refine List.reverse_injective (List.ext_getElem (by simpa using hlen) fun d hr hc => ?_)
  rw [← List.getD_eq_getElem _ 0#8 hr, ← List.getD_eq_getElem _ 0#8 hc]
  exact h d (by simpa using hr)

/-- The degrees at which two words of one length differ. -/
def errorDegrees (r c : List Byte) : Finset ℕ := (Finset.range r.length).filter fun d => symbolAt r d ≠ symbolAt c d

theorem mem_errorDegrees {r c : List Byte} {d : ℕ} :
    d ∈ errorDegrees r c ↔ d < r.length ∧ symbolAt r d ≠ symbolAt c d := by
  rw [errorDegrees, Finset.mem_filter, Finset.mem_range]

theorem errorDegrees_cons {x y : Byte} {r c : List Byte} (hlen : r.length = c.length) :
    errorDegrees (x :: r) (y :: c) = if x = y then errorDegrees r c else insert r.length (errorDegrees r c) := by
  have hrest : (Finset.range r.length).filter (fun d => symbolAt (x :: r) d ≠ symbolAt (y :: c) d)
      = errorDegrees r c := by
    refine Finset.filter_congr fun d hd => ?_
    have hlt := Finset.mem_range.1 hd
    rw [symbolAt_cons_lt x hlt, symbolAt_cons_lt y (hlen ▸ hlt)]
  have htop : symbolAt (y :: c) r.length = y := hlen ▸ symbolAt_cons_length y c
  rw [errorDegrees, List.length_cons, Finset.range_add_one, Finset.filter_insert, hrest, symbolAt_cons_length, htop]
  simp only [ne_eq, ite_not]

/-- The number of symbols in which two words differ is that of their error degrees (R175, R179). -/
theorem card_errorDegrees : ∀ {r c : List Byte}, r.length = c.length → (errorDegrees r c).card = symbolErrors r c
  | [], [], _ => rfl
  | x :: r, y :: c, hlen => by
    have hlen' : r.length = c.length := by simpa using hlen
    have hnot : r.length ∉ errorDegrees r c := by simp [mem_errorDegrees]
    rw [errorDegrees_cons hlen', symbolErrors, ← card_errorDegrees hlen']
    split_ifs
    · rw [zero_add]
    · rw [Finset.card_insert_of_notMem hnot, add_comm]

theorem symbolErrors_self (r : List Byte) : symbolErrors r r = 0 := by
  induction r with
  | nil => rfl
  | cons b r ih => rw [symbolErrors, if_pos rfl, ih]

theorem eq_of_errorDegrees_eq_empty {r c : List Byte} (hlen : r.length = c.length) (h : errorDegrees r c = ∅) :
    r = c := by
  refine eq_of_symbolAt hlen fun d hd => ?_
  by_contra hne
  simpa [h] using mem_errorDegrees.2 ⟨hd, hne⟩

/-! ### The value of a word -/

section

variable {p : Params} {K : Type} [Field K] {ι : Byte → K} (hι : IsSymbolField p.rsGfPoly ι)
include hι

theorem map_fieldEval_nil (y : Byte) : ι (fieldEval p.rsGfPoly [] y) = 0 := hι.map_zero

theorem map_fieldEval_append_singleton (r : List Byte) (b y : Byte) :
    ι (fieldEval p.rsGfPoly (r ++ [b]) y) = ι (fieldEval p.rsGfPoly r y) * ι y + ι b := by
  rw [fieldEval, List.foldl_append, List.foldl_cons, List.foldl_nil, hι.map_xor, hι.map_mul]
  rfl

theorem map_fieldEval_append (r s : List Byte) (y : Byte) :
    ι (fieldEval p.rsGfPoly (r ++ s) y)
      = ι (fieldEval p.rsGfPoly r y) * ι y ^ s.length + ι (fieldEval p.rsGfPoly s y) := by
  induction s using List.reverseRecOn with
  | nil => rw [List.append_nil, List.length_nil, pow_zero, mul_one, map_fieldEval_nil hι, add_zero]
  | append_singleton s b ih =>
    rw [← List.append_assoc, map_fieldEval_append_singleton hι, map_fieldEval_append_singleton hι, ih,
      List.length_append, List.length_singleton]
    ring

theorem map_fieldEval_singleton (b y : Byte) : ι (fieldEval p.rsGfPoly [b] y) = ι b := by
  rw [← List.nil_append [b], map_fieldEval_append_singleton hι, map_fieldEval_nil hι, zero_mul, zero_add]

theorem map_fieldEval_cons (b : Byte) (r : List Byte) (y : Byte) :
    ι (fieldEval p.rsGfPoly (b :: r) y) = ι b * ι y ^ r.length + ι (fieldEval p.rsGfPoly r y) := by
  rw [← List.singleton_append, map_fieldEval_append hι, map_fieldEval_singleton hι]

/-- The value of a word is the sum of its symbols times the powers of the argument (R172). -/
theorem map_fieldEval_eq_sum (r : List Byte) (y : Byte) :
    ι (fieldEval p.rsGfPoly r y) = ∑ d ∈ Finset.range r.length, ι (symbolAt r d) * ι y ^ d := by
  induction r with
  | nil => exact map_fieldEval_nil hι y
  | cons b r ih =>
    rw [map_fieldEval_cons hι, ih, List.length_cons, Finset.sum_range_succ, symbolAt_cons_length, add_comm]
    refine congrArg (· + _) (Finset.sum_congr rfl fun d hd => ?_)
    rw [symbolAt_cons_lt b (Finset.mem_range.1 hd)]

/-- The symbol that an error adds at a degree, times the power of the locator that every root has. -/
def errorValue (p : Params) (ι : Byte → K) (r c : List Byte) (d : ℕ) : K :=
  (ι (symbolAt r d) - ι (symbolAt c d)) * locator p ι d ^ p.rsFcr

/-- A word's value at a root is that of any codeword of its length plus the power sum of its errors (R174). -/
theorem map_fieldEval_root (hp : p.wellFormed = true) {necc : ℕ} {r c : List Byte} (hlen : c.length = r.length)
    (hc : IsCodeword p necc c) {i : ℕ} (hi : i < necc) :
    ι (fieldEval p.rsGfPoly r (alphaPow p.rsGfPoly ((p.rsPrim * (p.rsFcr + i)) % 255)))
      = powerSum (errorDegrees r c) (locator p ι) (errorValue p ι r c) i := by
  have hzero := map_fieldEval_eq_sum hι c (alphaPow p.rsGfPoly ((p.rsPrim * (p.rsFcr + i)) % 255))
  rw [hc i hi, hι.map_zero, hlen] at hzero
  rw [← sub_zero (ι _), hzero, map_fieldEval_eq_sum hι, ← Finset.sum_sub_distrib, powerSum, errorDegrees,
    Finset.sum_filter]
  refine Finset.sum_congr rfl fun d _ => ?_
  rw [map_generatorRoot_pow hι hp]
  split_ifs with hne
  · rw [errorValue, pow_add]
    ring
  · rw [not_not.1 hne, sub_self]

theorem errorValue_ne_zero (hp : p.wellFormed = true) {r c : List Byte} {d : ℕ} (hd : d ∈ errorDegrees r c) :
    errorValue p ι r c d ≠ 0 :=
  mul_ne_zero (sub_ne_zero.2 (hι.injective.ne (mem_errorDegrees.1 hd).2)) (pow_ne_zero _ (locator_ne_zero hι hp d))

theorem locator_injOn_errorDegrees (hp : p.wellFormed = true) {r c : List Byte} (hlen : r.length ≤ 255) :
    Set.InjOn (locator p ι) (errorDegrees r c) :=
  (locator_injOn hι hp).mono fun _ hd => (mem_errorDegrees.1 hd).1.trans_le hlen

end

/-! ### The minimum distance -/

/-- Two codewords of one length whose distance is within NECC are the same (R177). -/
theorem eq_of_symbolErrors_le {p : Params} (hp : p.wellFormed = true) {necc : ℕ} {c d : List Byte}
    (hlen : c.length = d.length) (h255 : c.length ≤ 255) (hc : IsCodeword p necc c) (hd : IsCodeword p necc d)
    (hle : symbolErrors c d ≤ necc) : c = d := by
  obtain ⟨K, _, _, ι, hι⟩ := exists_symbolField hp
  refine eq_of_errorDegrees_eq_empty hlen (Finset.eq_empty_of_forall_notMem fun k hk => ?_)
  rw [← card_errorDegrees hlen] at hle
  refine errorValue_ne_zero hι hp hk
    (eq_zero_of_powerSum_eq_zero (locator_injOn_errorDegrees hι hp h255) (fun i hi => ?_) hk)
  rw [← map_fieldEval_root hι hp hlen.symm hd (hi.trans_le hle), hc i (hi.trans_le hle), hι.map_zero]

/-- Settles O43: the symbols by which two codewords differ have NECC vanishing power sums, so there are more of them. -/
theorem codewordsDifferInMoreThanNeccSymbols : Obligations.CodewordsDifferInMoreThanNeccSymbols := by
  unfold Obligations.CodewordsDifferInMoreThanNeccSymbols
  intro p necc c d hp hlen h255 hc hd hne
  exact not_le.1 fun hle => hne (eq_of_symbolErrors_le hp hlen h255 hc hd hle)

/-! ### The encoder -/

theorem rsGenerator_succ (p : Params) (T : Tables) (n : ℕ) :
    rsGenerator p T (n + 1) = mulByRoot T (rsGenerator p T n) (rsRoot p T n) := by
  rw [rsGenerator, List.range_succ, List.foldl_append]
  rfl

/-- A generator of NECC factors has NECC symbols behind a leading 1 (R171). -/
theorem exists_rsGenerator_eq_cons (p : Params) (T : Tables) (necc : ℕ) :
    ∃ tail, rsGenerator p T necc = 1#8 :: tail ∧ tail.length = necc := by
  induction necc with
  | zero => exact ⟨[], rfl, rfl⟩
  | succ n ih =>
    obtain ⟨tail, htail, hlen⟩ := ih
    rw [rsGenerator_succ, htail]
    exact ⟨_, rfl, by simp [hlen]⟩

section

variable {p : Params} {K : Type} [Field K] {ι : Byte → K} (hι : IsSymbolField p.rsGfPoly ι)
include hι

theorem map_fieldEval_replicate_zero (n : ℕ) (y : Byte) :
    ι (fieldEval p.rsGfPoly (List.replicate n 0#8) y) = 0 := by
  induction n with
  | zero => exact map_fieldEval_nil hι y
  | succ n ih => rw [List.replicate_succ, map_fieldEval_cons hι, ih, hι.map_zero, zero_mul, zero_add]

theorem map_fieldEval_zipWith_xor (y : Byte) : ∀ {r s : List Byte}, r.length = s.length →
    ι (fieldEval p.rsGfPoly (List.zipWith (· ^^^ ·) r s) y)
      = ι (fieldEval p.rsGfPoly r y) + ι (fieldEval p.rsGfPoly s y)
  | [], [], _ => by rw [List.zipWith_nil_left, map_fieldEval_nil hι, add_zero]
  | a :: r, b :: s, hlen => by
    have hlen' : r.length = s.length := by simpa using hlen
    have hzip : (List.zipWith (· ^^^ ·) r s).length = s.length := by simp [hlen']
    rw [List.zipWith_cons_cons, map_fieldEval_cons hι, map_fieldEval_cons hι, map_fieldEval_cons hι,
      map_fieldEval_zipWith_xor y hlen', hι.map_xor, hzip, hlen']
    ring

theorem map_fieldEval_addPrefix (y : Byte) : ∀ {r d : List Byte}, d.length ≤ r.length →
    ι (fieldEval p.rsGfPoly (addPrefix r d) y)
      = ι (fieldEval p.rsGfPoly r y) + ι (fieldEval p.rsGfPoly d y) * ι y ^ (r.length - d.length)
  | r, [], _ => by
    rw [map_fieldEval_nil hι, zero_mul, add_zero]
    cases r <;> rfl
  | a :: r, b :: d, hlen => by
    have hlen' : d.length ≤ r.length := by simpa using hlen
    have hsplit : ι y ^ r.length = ι y ^ d.length * ι y ^ (r.length - d.length) := by
      rw [← pow_add, Nat.add_sub_cancel' hlen']
    rw [addPrefix, map_fieldEval_cons hι, map_fieldEval_cons hι, map_fieldEval_cons hι, map_fieldEval_addPrefix y hlen',
      hι.map_xor, addPrefix_length, List.length_cons, List.length_cons, Nat.add_sub_add_right, hsplit]
    ring

variable (hp : p.wellFormed = true)
include hp

theorem map_fieldEval_map_gfMul (q : List Byte) (b y : Byte) :
    ι (fieldEval p.rsGfPoly (q.map fun c => gfMul (Tables.build p) c b) y) = ι (fieldEval p.rsGfPoly q y) * ι b := by
  induction q with
  | nil => rw [List.map_nil, map_fieldEval_nil hι, zero_mul]
  | cons c q ih =>
    rw [List.map_cons, map_fieldEval_cons hι, map_fieldEval_cons hι, ih, hι.map_gfMul hp, List.length_map]
    ring

/-- A factor `x ⊕ b` of the generator multiplies its value by `y ⊕ b` (R171). -/
theorem map_fieldEval_mulByRoot (g : List Byte) (b y : Byte) :
    ι (fieldEval p.rsGfPoly (mulByRoot (Tables.build p) g b) y) = ι (fieldEval p.rsGfPoly g y) * (ι y + ι b) := by
  rw [mulByRoot, map_fieldEval_zipWith_xor hι y (by simp), map_fieldEval_append_singleton hι, map_fieldEval_cons hι,
    map_fieldEval_map_gfMul hι hp, hι.map_zero]
  ring

theorem map_fieldEval_rsGenerator (necc : ℕ) (y : Byte) :
    ι (fieldEval p.rsGfPoly (rsGenerator p (Tables.build p) necc) y)
      = ∏ i ∈ Finset.range necc, (ι y + ι (rsRoot p (Tables.build p) i)) := by
  induction necc with
  | zero => exact (map_fieldEval_singleton hι 1#8 y).trans hι.map_one
  | succ n ih =>
    rw [Finset.prod_range_succ, ← ih, ← map_fieldEval_mulByRoot hι hp, rsGenerator_succ]

variable [CharP K 2]

theorem map_fieldEval_rsGenerator_root {necc i : ℕ} (hi : i < necc) :
    ι (fieldEval p.rsGfPoly (rsGenerator p (Tables.build p) necc) (rsRoot p (Tables.build p) i)) = 0 := by
  rw [map_fieldEval_rsGenerator hι hp]
  exact Finset.prod_eq_zero (Finset.mem_range.2 hi) (CharTwo.add_self_eq_zero _)

/-- One round of the division takes a multiple of the generator off, which is 0 at a root (R173). -/
theorem map_fieldEval_rsReduce {tail : List Byte} {y : Byte} (hroot : ι (fieldEval p.rsGfPoly (1#8 :: tail) y) = 0) :
    ∀ {k : ℕ} {r : List Byte}, r.length = k + tail.length →
      ι (fieldEval p.rsGfPoly (rsReduce (Tables.build p) tail k r) y) = ι (fieldEval p.rsGfPoly r y)
  | 0, r, _ => by rw [rsReduce]
  | k + 1, [], _ => by rw [rsReduce]
  | k + 1, c :: r, hlen => by
    have hlen' : r.length = k + tail.length := by rw [List.length_cons] at hlen; omega
    rw [rsReduce, map_fieldEval_cons hι]
    split_ifs with hc
    · rw [map_fieldEval_rsReduce hroot hlen', hc, hι.map_zero, zero_mul, zero_add]
    · have htail : ι (fieldEval p.rsGfPoly tail y) = ι y ^ tail.length := by
        rw [map_fieldEval_cons hι, hι.map_one, one_mul] at hroot
        exact (CharTwo.add_eq_zero.1 hroot).symm
      have hpow : ι y ^ r.length = ι y ^ tail.length * ι y ^ (r.length - tail.length) := by
        rw [← pow_add, Nat.add_sub_cancel' (by omega)]
      rw [map_fieldEval_rsReduce hroot (by rwa [addPrefix_length]), map_fieldEval_addPrefix hι y (by simp; omega),
        map_fieldEval_map_gfMul hι hp, htail, List.length_map, hpow]
      ring

/-- The parity is the remainder: it takes the message's value, moved up by NECC degrees, to 0 at every root (R173). -/
theorem map_fieldEval_append_rsParity (m : List Byte) {necc i : ℕ} (hi : i < necc) :
    ι (fieldEval p.rsGfPoly (m ++ rsParity p (Tables.build p) necc m) (rsRoot p (Tables.build p) i)) = 0 := by
  obtain ⟨tail, hgen, htail⟩ := exists_rsGenerator_eq_cons p (Tables.build p) necc
  have hroot := map_fieldEval_rsGenerator_root hι hp hi
  rw [hgen] at hroot
  rw [map_fieldEval_append hι, rsParity_length, rsParity, hgen, List.tail_cons,
    map_fieldEval_rsReduce hι hp hroot (by rw [List.length_append, List.length_replicate, htail]),
    map_fieldEval_append hι, List.length_replicate, map_fieldEval_replicate_zero hι, add_zero, CharTwo.add_self_eq_zero]

end

theorem rsRoot_build {p : Params} (i : ℕ) :
    rsRoot p (Tables.build p) i = alphaPow p.rsGfPoly ((p.rsPrim * (p.rsFcr + i)) % 255) :=
  expAt_build p (Nat.mod_lt _ (by decide))

/-- A message followed by its parity is a codeword (R173). -/
theorem isCodeword_append_rsParity {p : Params} (hp : p.wellFormed = true) (necc : ℕ) (m : List Byte) :
    IsCodeword p necc (m ++ rsParity p (Tables.build p) necc m) := by
  obtain ⟨K, _, _, ι, hι⟩ := exists_symbolField hp
  intro i hi
  rw [← hι.eq_zero_iff, ← rsRoot_build, map_fieldEval_append_rsParity hι hp m hi]

/-- Settles O44: the parity is the remainder of the division by the generator, whose roots are those of the code. -/
theorem parityCompletesACodeword : Obligations.ParityCompletesACodeword := by
  unfold Obligations.ParityCompletesACodeword
  exact fun p necc m hp => ⟨rsParity_length _ _ _ _, isCodeword_append_rsParity hp necc m⟩

end Sys2Proof.Machine

/-! PROOFS. The statements about the decoder: its lists of coefficients as polynomials over the field of symbols, the
Berlekamp–Massey loop as steps of the invariant, Chien's search as the roots of Λ and Forney's values as the errors. -/

namespace Sys2Proof.Machine

open Polynomial

/-! ### Lists of coefficients as polynomials -/

section

variable {p : Params} {K : Type} [Field K] {ι : Byte → K}

/-- The polynomial of a list of coefficients, lowest degree first (R176). -/
noncomputable def lowPoly (ι : Byte → K) : List Byte → K[X]
  | [] => 0
  | b :: q => C (ι b) + X * lowPoly ι q

variable (hι : IsSymbolField p.rsGfPoly ι)
include hι

theorem lowPoly_coeff (q : List Byte) (i : ℕ) : (lowPoly ι q).coeff i = ι (q.getD i 0#8) := by
  induction q generalizing i with
  | nil => simp [lowPoly, hι.map_zero]
  | cons b q ih =>
    cases i with
    | zero => simp [lowPoly]
    | succ i => rw [lowPoly, coeff_add, coeff_C_succ, coeff_X_mul, ih, zero_add, List.getD_cons_succ]

theorem lowPoly_coeff_map_range (f : ℕ → Byte) (n i : ℕ) :
    (lowPoly ι ((List.range n).map f)).coeff i = if i < n then ι (f i) else 0 := by
  rw [lowPoly_coeff hι]
  split_ifs with h <;> simp [h, hι.map_zero]

theorem lowPoly_addPoly : ∀ q s : List Byte, lowPoly ι (addPoly q s) = lowPoly ι q + lowPoly ι s
  | [], s => by rw [addPoly, lowPoly, zero_add]
  | b :: q, [] => by simp [addPoly, lowPoly]
  | b :: q, c :: s => by
    rw [addPoly, lowPoly, lowPoly, lowPoly, lowPoly_addPoly q s, hι.map_xor, C_add]
    ring

theorem lowPoly_replicate_append (n : ℕ) (q : List Byte) :
    lowPoly ι (List.replicate n 0#8 ++ q) = X ^ n * lowPoly ι q := by
  induction n with
  | zero => rw [List.replicate_zero, List.nil_append, pow_zero, one_mul]
  | succ n ih =>
    rw [List.replicate_succ, List.cons_append, lowPoly, ih, hι.map_zero, C_0]
    ring

theorem lowPoly_append_zero (q : List Byte) : lowPoly ι (q ++ [0#8]) = lowPoly ι q := by
  induction q with
  | nil => simp [lowPoly, hι.map_zero]
  | cons b q ih => rw [List.cons_append, lowPoly, ih, lowPoly]

/-- The degree that the decoder computes is the polynomial's (R176). -/
theorem polyDegree_eq_natDegree (q : List Byte) : polyDegree q = (lowPoly ι q).natDegree := by
  induction q using List.reverseRecOn with
  | nil => simp [polyDegree, lowPoly]
  | append_singleton q b ih =>
    obtain rfl | hb := eq_or_ne b 0#8
    · rw [lowPoly_append_zero hι, ← ih]
      simp [polyDegree]
    · have hdeg : polyDegree (q ++ [b]) = q.length := by simp [polyDegree, hb]
      rw [hdeg]
      refine (natDegree_eq_of_le_of_coeff_ne_zero (natDegree_le_iff_coeff_eq_zero.2 fun i hi => ?_) ?_).symm
      · rw [lowPoly_coeff hι, List.getD_eq_default _ _ (by simpa using hi), hι.map_zero]
      · rw [lowPoly_coeff hι]
        simpa using mt hι.eq_zero_iff.1 hb

theorem map_foldl_xor (f : ℕ → Byte) (b : Byte) (n : ℕ) :
    ι ((List.range n).foldl (fun acc i => acc ^^^ f i) b) = ι b + ∑ i ∈ Finset.range n, ι (f i) := by
  induction n with
  | zero => simp
  | succ n ih =>
    rw [List.range_succ, List.foldl_append, List.foldl_cons, List.foldl_nil, hι.map_xor, ih, Finset.sum_range_succ,
      add_assoc]

variable (hp : p.wellFormed = true)
include hp

theorem lowPoly_map_gfMul (c : Byte) (q : List Byte) :
    lowPoly ι (q.map (gfMul (Tables.build p) c)) = C (ι c) * lowPoly ι q := by
  induction q with
  | nil => rw [List.map_nil, lowPoly, mul_zero]
  | cons b q ih =>
    rw [List.map_cons, lowPoly, lowPoly, ih, hι.map_gfMul hp, C_mul]
    ring

theorem eval_lowPoly (q : List Byte) (y : Byte) :
    (lowPoly ι q).eval (ι y) = ι (evalLow (Tables.build p) q y) := by
  rw [evalLow, polyEval_build hp]
  induction q with
  | nil => simp [lowPoly, map_fieldEval_nil hι]
  | cons b q ih =>
    rw [List.reverse_cons, map_fieldEval_append_singleton hι, ← ih, lowPoly, eval_add, eval_C, eval_mul, eval_X]
    ring

/-! ### The discrepancy -/

/-- The discrepancy is the next coefficient of `Λ·S` (R176). -/
theorem map_discrepancy (syn lam : List Byte) {ℓ n : ℕ} (hzero : (lowPoly ι lam).coeff 0 = 1)
    (hdeg : (lowPoly ι lam).natDegree ≤ ℓ) (hle : ℓ ≤ n) :
    ι (discrepancy (Tables.build p) syn lam ℓ n) = (lowPoly ι lam * lowPoly ι syn).coeff n := by
  have hbeyond : ∀ i ∈ Finset.range (n + 1), i ∉ Finset.range (ℓ + 1) →
      (lowPoly ι lam).coeff i * (lowPoly ι syn).coeff (n - i) = 0 := fun i _ hi => by
    rw [coeff_eq_zero_of_natDegree_lt (by simp at hi; omega), zero_mul]
  rw [coeff_mul_eq_sum_range, ← Finset.sum_subset (Finset.range_mono (by omega)) hbeyond, Finset.sum_range_succ', hzero,
    one_mul, Nat.sub_zero, discrepancy, map_foldl_xor hι, add_comm, lowPoly_coeff hι syn]
  refine congrArg (· + _) (Finset.sum_congr rfl fun i _ => ?_)
  rw [hι.map_gfMul hp, lowPoly_coeff hι, lowPoly_coeff hι]

end

/-! ### The loop -/

section

variable {p : Params} {K : Type} [Field K] {ι : Byte → K}

/-- The invariant of the loop, said of its variables. -/
def BmState.Good (ι : Byte → K) (syn : List Byte) (n : ℕ) (st : BmState) : Prop :=
  BmInvariant (lowPoly ι syn) (lowPoly ι st.lam) (X ^ st.shift * lowPoly ι st.prev) st.ell n (ι st.disc)

variable (hι : IsSymbolField p.rsGfPoly ι)
include hι

theorem BmState.good_init (syn : List Byte) : BmState.init.Good ι syn 0 := by
  have hone : lowPoly ι [1#8] = 1 := by simp [lowPoly, hι.map_one]
  have h := BmInvariant.init (lowPoly ι syn)
  rwa [← hone, ← mul_one X, ← hone, ← pow_one X, ← hι.map_one] at h

variable [CharP K 2] (hp : p.wellFormed = true)
include hp

theorem lowPoly_corrected (st : BmState) (d : Byte) (hdisc : st.disc ≠ 0#8) :
    lowPoly ι (st.corrected (Tables.build p) d)
      = lowPoly ι st.lam - C (ι d / ι st.disc) * (X ^ st.shift * lowPoly ι st.prev) := by
  rw [BmState.corrected, lowPoly_addPoly hι, lowPoly_replicate_append hι, lowPoly_map_gfMul hι hp,
    hι.map_gfDiv hp d hdisc, CharTwo.sub_eq_add]
  ring

/-- A round keeps the invariant and, while syndromes of the error are left, a length within the number of errors. -/
theorem BmState.good_bmStep {syn : List Byte} {st : BmState} {n N : ℕ} {E : Finset ℕ} {x a : ℕ → K}
    (h : st.Good ι syn n) (hS : IsSyndromeOf (lowPoly ι syn) N E x a) (hn : n < N) (hle : st.ell ≤ E.card) :
    (bmStep (Tables.build p) syn st n).Good ι syn (n + 1) ∧ (bmStep (Tables.build p) syn st n).ell ≤ E.card := by
  have hdisc : st.disc ≠ 0#8 := mt hι.eq_zero_iff.2 h.disc_ne_zero
  have hcoeff := map_discrepancy hι hp syn st.lam h.coeff_zero h.natDegree_le h.ell_le
  have hshift : X ^ (st.shift + 1) * lowPoly ι st.prev = X * (X ^ st.shift * lowPoly ι st.prev) := by
    rw [pow_succ', mul_assoc]
  unfold bmStep
  simp only
  generalize discrepancy (Tables.build p) syn st.lam st.ell n = d at hcoeff ⊢
  split_ifs with hd hℓ
  · refine ⟨?_, hle⟩
    rw [hd, hι.map_zero] at hcoeff
    have hkeep := h.keep hcoeff.symm
    rwa [← hshift] at hkeep
  · have hne : ι d ≠ 0 := mt hι.eq_zero_iff.1 hd
    refine ⟨?_, h.lt_card hS hn (hcoeff ▸ hne)⟩
    have hlen := h.lengthen hcoeff.symm hne hℓ
    rwa [← lowPoly_corrected hι hp st d hdisc, ← pow_one X] at hlen
  · refine ⟨?_, hle⟩
    have hadj := h.adjust hcoeff.symm (by omega)
    rwa [← lowPoly_corrected hι hp st d hdisc, ← hshift] at hadj

/-- The locator polynomial of the loop locates the errors, where they are no more than half the syndromes (R176). -/
theorem isLocatorOf_bmLocator {syn : List Byte} {N : ℕ} {E : Finset ℕ} {x a : ℕ → K}
    (hS : IsSyndromeOf (lowPoly ι syn) N E x a) (hE : 2 * E.card ≤ N) :
    IsLocatorOf (lowPoly ι (bmLocator (Tables.build p) N syn)) E x := by
  have hloop : ∀ n ≤ N, ((List.range n).foldl (bmStep (Tables.build p) syn) BmState.init).Good ι syn n
      ∧ ((List.range n).foldl (bmStep (Tables.build p) syn) BmState.init).ell ≤ E.card := by
    intro n hn
    induction n with
    | zero => exact ⟨BmState.good_init hι syn, Nat.zero_le _⟩
    | succ n ih =>
      obtain ⟨hgood, hle⟩ := ih (by omega)
      rw [List.range_succ, List.foldl_append]
      exact BmState.good_bmStep hι hp hgood hS hn hle
  obtain ⟨hgood, hle⟩ := hloop N le_rfl
  exact hgood.isLocatorOf hS hle hE

end

/-! ### Chien's search -/

section

variable {p : Params} {K : Type} [Field K] {ι : Byte → K} (hι : IsSymbolField p.rsGfPoly ι)
  (hp : p.wellFormed = true)
include hι hp

theorem rsBeta_ne_zero : rsBeta p (Tables.build p) ≠ 0#8 := by
  rw [ne_eq, ← hι.eq_zero_iff, map_rsBeta hι hp, hι.eq_zero_iff]
  exact alphaPow_ne_zero_all hp _

/-- The search finds the degrees below 255 whose inverse locator is a root of Λ (R176). -/
theorem mem_chienSearch (lam : List Byte) (d : ℕ) :
    d ∈ chienSearch p (Tables.build p) lam ↔ d < 255 ∧ (lowPoly ι lam).eval (locator p ι d)⁻¹ = 0 := by
  have hpoint : ι (gfPowInt (Tables.build p) (rsBeta p (Tables.build p)) (-(d : ℤ))) = (locator p ι d)⁻¹ := by
    rw [hι.map_gfPowInt hp (rsBeta_ne_zero hι hp), map_rsBeta hι hp, zpow_neg, zpow_natCast, locator]
  rw [chienSearch, List.mem_filter, List.mem_range, beq_iff_eq, ← hι.eq_zero_iff, ← eval_lowPoly hι hp, hpoint]

/-- Over a locator of errors below degree 255, it finds the error degrees. -/
theorem toFinset_chienSearch {lam : List Byte} {E : Finset ℕ} (hE : ∀ d ∈ E, d < 255)
    (hlam : IsLocatorOf (lowPoly ι lam) E (locator p ι)) : (chienSearch p (Tables.build p) lam).toFinset = E := by
  ext d
  rw [List.mem_toFinset, mem_chienSearch hι hp]
  constructor
  · rintro ⟨hd, heval⟩
    refine hlam.mem_of_eval_eq_zero ((locator_injOn hι hp).mono ?_) heval
    exact Set.insert_subset hd hE
  · exact fun hd => ⟨hE d hd, hlam.eval_eq_zero d hd⟩

/-- Ω has the coefficients of `S·Λ` below `x^NECC` (R176). -/
theorem lowPoly_errorEvaluator_coeff (necc : ℕ) (syn lam : List Byte) (j : ℕ) :
    (lowPoly ι (errorEvaluator (Tables.build p) necc syn lam)).coeff j
      = if j < necc then (lowPoly ι syn * lowPoly ι lam).coeff j else 0 := by
  rw [errorEvaluator, lowPoly_coeff_map_range hι]
  refine if_congr Iff.rfl ?_ rfl
  rw [map_foldl_xor hι, hι.map_zero, zero_add, coeff_mul_eq_sum_range]
  refine Finset.sum_congr rfl fun i _ => ?_
  rw [hι.map_gfMul hp, lowPoly_coeff hι, lowPoly_coeff hι]

end

theorem chienSearch_nodup (p : Params) (T : Tables) (lam : List Byte) : (chienSearch p T lam).Nodup :=
  List.nodup_range.filter _

/-! ### Forney's values -/

section

variable {p : Params} {K : Type} [Field K] [CharP K 2] {ι : Byte → K} (hι : IsSymbolField p.rsGfPoly ι)
include hι

/-- In characteristic 2 the derivative keeps the odd coefficients and drops the even ones (R176). -/
theorem lowPoly_formalDerivative (lam : List Byte) :
    lowPoly ι (formalDerivative lam) = (lowPoly ι lam).derivative := by
  ext j
  rw [formalDerivative, lowPoly_coeff_map_range hι, coeff_derivative, lowPoly_coeff hι]
  by_cases hj : j < lam.length - 1
  · rw [if_pos hj]
    obtain ⟨k, rfl | rfl⟩ := j.even_or_odd'
    · simp [CharTwo.two_eq_zero]
    · have hodd : ((2 * k + 1 : ℕ) : K) + 1 = 0 := by
        push_cast
        rw [CharTwo.two_eq_zero, zero_mul, zero_add, CharTwo.add_self_eq_zero]
      rw [if_neg (by omega), hι.map_zero, hodd, mul_zero]
  · rw [if_neg hj, List.getD_eq_default _ _ (by omega), hι.map_zero, zero_mul]

variable (hp : p.wellFormed = true)
include hp

/-- The value at an error's degree is what the error added to the symbol there (R176). -/
theorem map_forneyValue {necc : ℕ} {syn lam : List Byte} {E : Finset ℕ} {a : ℕ → K}
    (hS : IsSyndromeOf (lowPoly ι syn) necc E (locator p ι) a) (hlam : IsLocatorOf (lowPoly ι lam) E (locator p ι))
    (hE : E.card ≤ necc) {d : ℕ} (hd : d ∈ E) :
    ι (forneyValue p (Tables.build p) (errorEvaluator (Tables.build p) necc syn lam) (formalDerivative lam) d)
        * locator p ι d ^ p.rsFcr = a d := by
  obtain ⟨hne, hratio⟩ := forney_formula hS hlam hE (lowPoly_errorEvaluator_coeff hι hp necc syn lam) hd
  have hx : ι (gfPow (Tables.build p) (rsBeta p (Tables.build p)) d) = locator p ι d := by
    rw [hι.map_gfPow hp, map_rsBeta hι hp, locator]
  have hx0 : locator p ι d ≠ 0 := locator_ne_zero hι hp d
  unfold forneyValue
  simp only
  generalize gfPow (Tables.build p) (rsBeta p (Tables.build p)) d = y at hx ⊢
  have hy : y ≠ 0#8 := fun h => hx0 (by rw [← hx, h, hι.map_zero])
  simp only [← hx, ← hι.map_gfInv hp hy, ← lowPoly_formalDerivative hι, eval_lowPoly hι hp] at hne hratio
  rw [hι.map_gfMul hp, hι.map_gfPowInt hp hy, hι.map_gfDiv hp _ (mt hι.eq_zero_iff.2 hne), hratio, hι.map_gfInv hp hy,
    CharTwo.neg_eq, hx, zpow_sub₀ hx0, zpow_one, zpow_natCast]
  field_simp

end

/-! ### The corrections -/

@[simp] theorem addAtDegree_length (r : List Byte) (d : ℕ) (y : Byte) : (addAtDegree r d y).length = r.length := by
  simp [addAtDegree]

theorem symbolAt_addAtDegree {r : List Byte} {d k : ℕ} (hd : d < r.length) (hk : k < r.length) (y : Byte) :
    symbolAt (addAtDegree r d y) k = if k = d then symbolAt r k ^^^ y else symbolAt r k := by
  have hidx : r.length - 1 - d = r.length - 1 - k ↔ k = d := by omega
  have hlt : r.length - 1 - k < r.length := by omega
  rw [symbolAt_eq_getD hk, symbolAt_eq_getD (by rwa [addAtDegree_length]), addAtDegree_length, addAtDegree]
  simp only [List.getD_eq_getElem?_getD, List.getElem?_set, hidx]
  obtain rfl | hne := eq_or_ne k d
  · simp [hlt]
  · simp [hne]

/-- Each located degree has its value added once, and no other symbol changes. -/
theorem symbolAt_applyCorrections (p : Params) (T : Tables) (omega dlam : List Byte) {k : ℕ} :
    ∀ {locs : List ℕ} {r : List Byte}, locs.Nodup → (∀ d ∈ locs, d < r.length) → k < r.length →
      symbolAt (applyCorrections p T omega dlam r locs) k
        = if k ∈ locs then symbolAt r k ^^^ forneyValue p T omega dlam k else symbolAt r k
  | [], r, _, _, _ => by simp [applyCorrections]
  | d :: locs, r, hnodup, hlt, hk => by
    obtain ⟨hnot, hnodup⟩ := List.nodup_cons.1 hnodup
    obtain ⟨hd, hlt⟩ := List.forall_mem_cons.1 hlt
    have hrest := symbolAt_applyCorrections p T omega dlam (k := k)
      (r := addAtDegree r d (forneyValue p T omega dlam d)) hnodup (by simpa using hlt) (by simpa using hk)
    rw [applyCorrections, List.foldl_cons]
    refine hrest.trans ?_
    rw [symbolAt_addAtDegree hd hk]
    obtain rfl | hne := eq_or_ne k d
    · simp [hnot]
    · simp [hne]

/-! ### The decoder -/

theorem rsSyndromes_allZero_iff {p : Params} (hp : p.wellFormed = true) (necc : ℕ) (r : List Byte) :
    allZero (rsSyndromes p (Tables.build p) necc r) = true ↔ IsCodeword p necc r := by
  simp only [allZero_syndromes_iff, polyEval_build hp, rsRoot_build, IsCodeword]

/-- How a repair succeeds: each of its four checks is met (R176). -/
theorem rsRepair_eq_some {p : Params} {T : Tables} {necc w : ℕ} {r c syn lam : List Byte} (hdeg : polyDegree lam = w)
    (hw : w ≤ necc / 2) (hcount : (chienSearch p T lam).length = w) (hlt : ∀ d ∈ chienSearch p T lam, d < r.length)
    (hcorr : applyCorrections p T (errorEvaluator T necc syn lam) (formalDerivative lam) r (chienSearch p T lam) = c)
    (hzero : allZero (rsSyndromes p T necc c) = true) : rsRepair p T necc r syn lam = some (c, w) := by
  have hinside : ¬ ((chienSearch p T lam).any fun d => decide (r.length ≤ d)) = true := by
    simpa using hlt
  rw [rsRepair]
  simp only [hdeg, hcount, hcorr, hzero]
  rw [if_neg (not_lt.2 hw), if_neg (not_not.2 rfl), if_neg hinside, if_pos trivial]

section

variable {p : Params} (hp : p.wellFormed = true) {necc : ℕ} {r c : List Byte}
include hp

/-- The syndromes of a word are those of its errors against any codeword (R174). -/
theorem isSyndromeOf_rsSyndromes {K : Type} [Field K] {ι : Byte → K} (hι : IsSymbolField p.rsGfPoly ι)
    (hlen : c.length = r.length) (h255 : r.length ≤ 255) (hc : IsCodeword p necc c) :
    IsSyndromeOf (lowPoly ι (rsSyndromes p (Tables.build p) necc r)) necc (errorDegrees r c) (locator p ι)
      (errorValue p ι r c) where
  coeff_eq i hi := by
    rw [rsSyndromes, lowPoly_coeff_map_range hι, if_pos hi, polyEval_build hp, rsRoot_build,
      map_fieldEval_root hι hp hlen hc hi]
  injOn := locator_injOn_errorDegrees hι hp h255
  locator_ne_zero d _ := locator_ne_zero hι hp d
  value_ne_zero _ hd := errorValue_ne_zero hι hp hd

/-- Over the errors' locator the corrections take every error off. -/
theorem applyCorrections_eq_codeword {K : Type} [Field K] [CharP K 2] {ι : Byte → K}
    (hι : IsSymbolField p.rsGfPoly ι) (hlen : c.length = r.length) {syn lam : List Byte} {locs : List ℕ}
    (hS : IsSyndromeOf (lowPoly ι syn) necc (errorDegrees r c) (locator p ι) (errorValue p ι r c))
    (hlam : IsLocatorOf (lowPoly ι lam) (errorDegrees r c) (locator p ι)) (hle : (errorDegrees r c).card ≤ necc)
    (hnodup : locs.Nodup) (hmem : ∀ d, d ∈ locs ↔ d ∈ errorDegrees r c) :
    applyCorrections p (Tables.build p) (errorEvaluator (Tables.build p) necc syn lam) (formalDerivative lam) r locs
      = c := by
  have hlt : ∀ d ∈ locs, d < r.length := fun d hd => (mem_errorDegrees.1 ((hmem d).1 hd)).1
  refine eq_of_symbolAt (by rw [applyCorrections_length, hlen]) fun k hk => ?_
  rw [applyCorrections_length] at hk
  rw [symbolAt_applyCorrections _ _ _ _ hnodup hlt hk]
  split_ifs with h
  · have hvalue := map_forneyValue hι hp hS hlam hle ((hmem k).1 h)
    have hval := mul_right_cancel₀ (pow_ne_zero _ (locator_ne_zero hι hp k)) hvalue
    apply hι.injective
    rw [hι.map_xor, hval, ← CharTwo.sub_eq_add, sub_sub_cancel]
  · by_contra hne
    exact h ((hmem k).2 (mem_errorDegrees.2 ⟨hk, hne⟩))

/-- Within the correction bound, what R176 does with the syndromes restores the codeword and counts its errors. -/
theorem rsRepair_of_symbolErrors_le (hlen : c.length = r.length) (h255 : r.length ≤ 255) (hc : IsCodeword p necc c)
    (hle : symbolErrors r c ≤ necc / 2) :
    rsRepair p (Tables.build p) necc r (rsSyndromes p (Tables.build p) necc r)
      (bmLocator (Tables.build p) necc (rsSyndromes p (Tables.build p) necc r)) = some (c, symbolErrors r c) := by
  obtain ⟨K, _, _, ι, hι⟩ := exists_symbolField hp
  have hcard := card_errorDegrees hlen.symm
  have hS := isSyndromeOf_rsSyndromes hp hι hlen h255 hc
  have hlam := isLocatorOf_bmLocator hι hp hS (by omega)
  have hnodup := chienSearch_nodup p (Tables.build p)
    (bmLocator (Tables.build p) necc (rsSyndromes p (Tables.build p) necc r))
  have hset := toFinset_chienSearch hι hp (fun d hd => (mem_errorDegrees.1 hd).1.trans_le h255) hlam
  have hmem : ∀ d, d ∈ chienSearch p (Tables.build p)
      (bmLocator (Tables.build p) necc (rsSyndromes p (Tables.build p) necc r)) ↔ d ∈ errorDegrees r c :=
    fun d => by rw [← hset, List.mem_toFinset]
  refine rsRepair_eq_some ?_ hle ?_ (fun d hd => (mem_errorDegrees.1 ((hmem d).1 hd)).1)
    (applyCorrections_eq_codeword hp hι hlen hS hlam (by omega) hnodup hmem)
    ((rsSyndromes_allZero_iff hp necc c).2 hc)
  · rw [polyDegree_eq_natDegree hι, hlam.natDegree_eq, hcard]
  · rw [← hcard, ← hset, List.toFinset_card_of_nodup hnodup]

/-- The decoder finds every codeword within the correction bound (R175, R177). -/
theorem rsCorrect_of_symbolErrors_le (hlen : c.length = r.length) (h255 : r.length ≤ 255) (hc : IsCodeword p necc c)
    (hle : symbolErrors r c ≤ necc / 2) :
    rsCorrect p (Tables.build p) necc r = some (c, symbolErrors r c) := by
  by_cases hr : IsCodeword p necc r
  · obtain rfl : r = c := eq_of_symbolErrors_le hp hlen.symm h255 hr hc (by omega)
    rw [rsCorrect_of_zero ((rsSyndromes_allZero_iff hp necc r).2 hr), symbolErrors_self]
  · rw [rsCorrect, if_neg (mt (rsSyndromes_allZero_iff hp necc r).1 hr),
      rsRepair_of_symbolErrors_le hp hlen h255 hc hle]

/-- Whatever it returns is a codeword that differs from the word at located degrees only (R177, R179). -/
theorem rsCorrect_sound {w : ℕ} (h : rsCorrect p (Tables.build p) necc r = some (c, w)) :
    IsCodeword p necc c ∧ symbolErrors r c ≤ w := by
  rcases rsCorrect_some h with ⟨hzero, rfl, rfl⟩ | ⟨-, hrepair⟩
  · exact ⟨(rsSyndromes_allZero_iff hp necc _).1 hzero, (symbolErrors_self _).le⟩
  · obtain ⟨-, -, hcount, hlt, hcorr, hzero⟩ := rsRepair_some hrepair
    refine ⟨(rsSyndromes_allZero_iff hp necc c).1 hzero, ?_⟩
    rw [← card_errorDegrees (rsCorrect_length h).symm, ← hcount]
    refine (Finset.card_le_card fun d hd => ?_).trans (List.toFinset_card_le _)
    obtain ⟨hdlt, hne⟩ := mem_errorDegrees.1 hd
    rw [List.mem_toFinset]
    by_contra hnot
    rw [hcorr, symbolAt_applyCorrections _ _ _ _ (chienSearch_nodup _ _ _) hlt hdlt, if_neg hnot] at hne
    exact hne rfl

/-- The decoder's result, said of codewords: R175 without its algorithm. -/
theorem rsCorrect_eq_some_iff (h255 : r.length ≤ 255) {w : ℕ} :
    rsCorrect p (Tables.build p) necc r = some (c, w)
      ↔ c.length = r.length ∧ IsCodeword p necc c ∧ symbolErrors r c = w ∧ w ≤ necc / 2 := by
  constructor
  · intro h
    have hlen := rsCorrect_length h
    have hw := rsCorrect_count_le h
    obtain ⟨hc, hle⟩ := rsCorrect_sound hp h
    have hsome := rsCorrect_of_symbolErrors_le hp hlen h255 hc (hle.trans hw)
    rw [h, Option.some.injEq, Prod.mk.injEq] at hsome
    exact ⟨hlen, hc, hsome.2.symm, hw⟩
  · rintro ⟨hlen, hc, rfl, hle⟩
    exact rsCorrect_of_symbolErrors_le hp hlen h255 hc hle

theorem rsCorrect_eq_none_iff (h255 : r.length ≤ 255) :
    rsCorrect p (Tables.build p) necc r = none
      ↔ ∀ c : List Byte, c.length = r.length → IsCodeword p necc c → necc / 2 < symbolErrors r c := by
  rw [Option.eq_none_iff_forall_ne_some]
  constructor
  · exact fun h c hlen hc => not_le.1 fun hle => h _ (rsCorrect_of_symbolErrors_le hp hlen h255 hc hle)
  · rintro h ⟨c, w⟩ hsome
    obtain ⟨hlen, hc, rfl, hle⟩ := (rsCorrect_eq_some_iff hp h255).1 hsome
    exact absurd (h c hlen hc) (not_lt.2 hle)

end

/-- Settles O45: the algorithm finds every codeword within the bound, and returns nothing else. -/
theorem referenceDecoderIsBoundedDistance : Obligations.ReferenceDecoderIsBoundedDistance := by
  unfold Obligations.ReferenceDecoderIsBoundedDistance
  exact fun p necc r r' w hp _ _ h255 => rsCorrect_eq_some_iff hp h255

/-- Settles O46: the last check of the algorithm, and the number of degrees it has located. -/
theorem decoderNeverReturnsANonCodeword : Obligations.DecoderNeverReturnsANonCodeword := by
  unfold Obligations.DecoderNeverReturnsANonCodeword
  intro p necc r r' w hp h
  obtain ⟨hc, hle⟩ := rsCorrect_sound hp h
  exact ⟨rsCorrect_length h, hc, hle, rsCorrect_count_le h⟩

end Sys2Proof.Machine

/-! PROOFS. The statements about RS_ENCODE and RS_DECODE. -/

namespace Sys2Proof.Machine

section

variable {s : State}

theorem exec_rsEncode_of_fits (hv : s.codec.valid = true) (hfit : s.offset + s.codec.wordLen ≤ s.params.bufSize) :
    exec .rsEncode s = .next ((s.memWrite (s.offset + s.codec.msgLen)
      (rsParity s.params s.tables s.codec.necc (s.memRead s.offset s.codec.msgLen))).endCommand .eNone 0#32 0#32) :=
  congrArg _ ((if_pos hv).trans (if_pos ((s.spanFits_iff _ _).2 hfit)))

/-- RS_DECODE on a word that fits ends by the result of the decoder (R181). -/
theorem exec_rsDecode_of_fits (hv : s.codec.valid = true) (hfit : s.offset + s.codec.wordLen ≤ s.params.bufSize) :
    exec .rsDecode s
      = .next (s.endDecode (rsCorrect s.params s.tables s.codec.necc (s.memRead s.offset s.codec.wordLen))) :=
  congrArg _ ((if_pos hv).trans (if_pos ((s.spanFits_iff _ _).2 hfit)))

theorem exec_rsDecode_of_beyond (hv : s.codec.valid = true)
    (hfit : ¬ s.offset + s.codec.wordLen ≤ s.params.bufSize) :
    exec .rsDecode s = .next (s.endCommand .eRange 0#32 0#32) :=
  congrArg _ ((if_pos hv).trans (if_neg (mt (s.spanFits_iff _ _).1 hfit)))

theorem exec_rsDecode_of_invalid (hv : ¬ s.codec.valid = true) :
    exec .rsDecode s = .next (s.endCommand .eConfig 0#32 0#32) :=
  congrArg _ (if_neg hv)

/-- The fields of CODEC_CFG are bytes, so a word has at most 255 symbols (R46, R170). -/
theorem codec_wordLen_le (s : State) : s.codec.wordLen ≤ 255 := by
  have hn : s.codec.n = s.codecCfg.toNat % 256 := codecOfWord_n _
  simp only [Codec.wordLen]
  omega

theorem memRead_wordLen_le (s : State) : (s.memRead s.offset s.codec.wordLen).length ≤ 255 := by
  rw [State.memRead_length]
  exact codec_wordLen_le s

/-- A count within the correction bound fits in RESULT0 (R179). -/
theorem toNat_ofNat_of_le_bound {s : State} (hv : s.codec.valid = true) {w : ℕ} (hw : w ≤ s.codec.necc / 2) :
    (BitVec.ofNat 32 w).toNat = w := by
  have hword := codec_wordLen_le s
  have hvalid := s.codec.valid_iff.1 hv
  simp only [Codec.wordLen] at hword
  rw [BitVec.toNat_ofNat, Nat.mod_eq_of_lt (by omega)]

/-- The word that RS_DECODE has written reads back. -/
theorem memRead_written_word {s : State} {c : List Byte} {n : ℕ} (hlen : c.length = n) {e : ErrCode} {r0 r1 : Word} :
    ((s.memWrite s.offset c).endCommand e r0 r1).memRead s.offset n = c := by
  rw [State.memRead_endCommand, ← hlen, State.memRead_memWrite]

/-- A span that is written over with bytes it already held reads as before everywhere. -/
theorem bufByte_memWrite_memRead (s : State) (a n x : ℕ) : (s.memWrite a (s.memRead a n)).bufByte x = s.bufByte x := by
  rw [State.bufByte_memWrite, State.memRead_length]
  split_ifs with h
  · rw [State.memRead_getD s (by omega), Nat.add_sub_cancel' h.1]
  · rfl

section

variable (hs : s.Initialised) (hv : s.codec.valid = true) (hfit : s.offset + s.codec.wordLen ≤ s.params.bufSize)
include hs hv hfit

/-- RS_DECODE on a word with a codeword within the correction bound (R177, R181). -/
theorem exec_rsDecode_of_close {c : List Byte} (hlen : c.length = s.codec.wordLen)
    (hc : IsCodeword s.params s.codec.necc c)
    (hle : symbolErrors (s.memRead s.offset s.codec.wordLen) c ≤ s.codec.necc / 2) :
    exec .rsDecode s = .next ((s.memWrite s.offset c).endCommand .eNone
      (BitVec.ofNat 32 (symbolErrors (s.memRead s.offset s.codec.wordLen) c)) 0#32) := by
  obtain ⟨hp, htables⟩ := hs
  rw [exec_rsDecode_of_fits hv hfit, htables,
    rsCorrect_of_symbolErrors_le hp (hlen.trans (s.memRead_length _ _).symm) (memRead_wordLen_le s) hc hle]
  rfl

/-- RS_DECODE on a word with none (R178, R181). -/
theorem exec_rsDecode_of_far (hfar : ∀ c : List Byte, c.length = s.codec.wordLen → IsCodeword s.params s.codec.necc c →
      s.codec.necc / 2 < symbolErrors (s.memRead s.offset s.codec.wordLen) c) :
    exec .rsDecode s = .next (s.endCommand .eUncorrectable 0#32 0#32) := by
  obtain ⟨hp, htables⟩ := hs
  have hnone := rsCorrect_eq_none_iff hp (necc := s.codec.necc) (memRead_wordLen_le s)
  rw [s.memRead_length] at hnone
  rw [exec_rsDecode_of_fits hv hfit, htables, hnone.2 hfar]
  rfl

end

end

/-- Settles O47: the parity of the message goes behind it, and nowhere else. -/
theorem rsEncodeCommandResult : Obligations.RsEncodeCommandResult := by
  unfold Obligations.RsEncodeCommandResult
  rintro s ⟨hp, htables⟩ hv hfit
  have hword : s.codec.msgLen + s.codec.necc = s.codec.wordLen := Codec.msgLen_add_necc hv
  refine ⟨_, exec_rsEncode_of_fits hv hfit, EndsWith.memWrite_endCommand s _ _ _ _ _, ?_, fun a ha => ?_⟩
  · have hmsg := s.memRead_memWrite_disjoint (a := s.offset + s.codec.msgLen) (b := s.offset) (n := s.codec.msgLen)
      (bs := rsParity s.params s.tables s.codec.necc (s.memRead s.offset s.codec.msgLen)) (.inl le_rfl)
    have hpar := s.memRead_memWrite (s.offset + s.codec.msgLen)
      (rsParity s.params s.tables s.codec.necc (s.memRead s.offset s.codec.msgLen))
    rw [rsParity_length] at hpar
    change IsCodeword _ _ (State.memRead _ s.offset s.codec.wordLen)
    rw [State.memRead_endCommand, ← hword, State.memRead_append, hmsg, hpar, htables]
    exact isCodeword_append_rsParity hp _ _
  · refine State.bufByte_memWrite_outside s ?_
    rw [rsParity_length, Nat.add_assoc, hword]
    exact ha

/-- Settles O48: a codeword lies 0 symbols from itself, and is written over itself. -/
theorem rsDecodeAcceptsACodeword : Obligations.RsDecodeAcceptsACodeword := by
  unfold Obligations.RsDecodeAcceptsACodeword
  intro s hs hv hfit hc
  have hexec := exec_rsDecode_of_close hs hv hfit (s.memRead_length _ _) hc (by simp [symbolErrors_self])
  rw [symbolErrors_self] at hexec
  exact ⟨_, hexec, EndsWith.memWrite_endCommand s _ _ _ _ _, bufByte_memWrite_memRead s _ _⟩

/-- Settles O49: the decoder finds the codeword, whose length is that of the span it is written to. -/
theorem rsDecodeRestoresUpToBoundErrors : Obligations.RsDecodeRestoresUpToBoundErrors := by
  unfold Obligations.RsDecodeRestoresUpToBoundErrors
  intro s c hs hv hfit hlen hc hle
  exact ⟨_, exec_rsDecode_of_close hs hv hfit hlen hc hle, EndsWith.memWrite_endCommand s _ _ _ _ _,
    memRead_written_word hlen, fun a ha => State.bufByte_memWrite_outside s (by rwa [hlen])⟩

/-- Settles O50: the four ends of RS_DECODE, in the order of its checks. -/
theorem rsDecodeNeverLeavesACorruptedWord : Obligations.RsDecodeNeverLeavesACorruptedWord := by
  unfold Obligations.RsDecodeNeverLeavesACorruptedWord
  intro s hs
  by_cases hv : s.codec.valid = true
  case neg =>
    refine ⟨_, exec_rsDecode_of_invalid hv, SameBesideEnd.endCommand s _ _ _, fun _ _ => rfl,
      .inr ⟨.inl rfl, fun _ => rfl, rfl, rfl⟩, iff_of_false nofun ?_⟩
    exact fun ⟨hvalid, _⟩ => hv hvalid
  by_cases hfit : s.offset + s.codec.wordLen ≤ s.params.bufSize
  case neg =>
    refine ⟨_, exec_rsDecode_of_beyond hv hfit, SameBesideEnd.endCommand s _ _ _, fun _ _ => rfl,
      .inr ⟨.inr (.inl rfl), fun _ => rfl, rfl, rfl⟩, iff_of_false nofun ?_⟩
    exact fun ⟨_, hspan, _⟩ => hfit hspan
  by_cases hfar : ∀ c : List Byte, c.length = s.codec.wordLen → IsCodeword s.params s.codec.necc c →
      s.codec.necc / 2 < symbolErrors (s.memRead s.offset s.codec.wordLen) c
  case pos =>
    exact ⟨_, exec_rsDecode_of_far hs hv hfit hfar, SameBesideEnd.endCommand s _ _ _, fun _ _ => rfl,
      .inr ⟨.inr (.inr rfl), fun _ => rfl, rfl, rfl⟩, iff_of_true rfl ⟨hv, hfit, hfar⟩⟩
  case neg =>
    have hclose := hfar
    push Not at hclose
    obtain ⟨c, hlen, hc, hle⟩ := hclose
    have hcount := toNat_ofNat_of_le_bound hv hle
    refine ⟨_, exec_rsDecode_of_close hs hv hfit hlen hc hle, (EndsWith.memWrite_endCommand s _ _ _ _ _).same,
      fun a ha => State.bufByte_memWrite_outside s (by rwa [hlen]), .inl ⟨rfl, ?_, ?_, ?_, rfl⟩, iff_of_false nofun ?_⟩
    · rwa [memRead_written_word hlen]
    · rw [memRead_written_word hlen]
      exact hcount.symm
    · exact hcount.trans_le hle
    · exact fun ⟨_, _, h⟩ => hfar h

end Sys2Proof.Machine

/-! PROOFS. The statements about blocks: the fields of a block as little-endian numbers, the block that BUILD_DATA and
BUILD_SUPER leave in BUF, and the ends of VERIFY by the codewords near the bytes in BUF. -/

namespace Sys2Proof.Machine

/-! ### The fields of a block -/

/-- Words whose bytes agree are the same. -/
theorem eq_of_bytes {v w : Word} (h : ∀ i < 4, v.extractLsb' (8 * i) 8 = w.extractLsb' (8 * i) 8) : v = w := by
  apply BitVec.eq_of_getLsbD_eq
  intro j hj
  have hbyte := congrArg (BitVec.getLsbD · (j % 8)) (h (j / 8) (by omega))
  simpa [Nat.mod_lt, Nat.div_add_mod] using hbyte

theorem le32_getD (v : Word) {i : Nat} (hi : i < 4) : (le32 v).getD i 0#8 = v.extractLsb' (8 * i) 8 := by
  interval_cases i <;> rfl

/-- Reading the four bytes of a word gives it back (R18). -/
theorem ofLE_le32 (v : Word) : ofLE (le32 v) = v :=
  eq_of_bytes fun i hi => by rw [extractLsb'_ofLE _ hi, le32_getD v hi]

theorem le32_injective : Function.Injective le32 := Function.LeftInverse.injective ofLE_le32

/-- The bytes of the number that four bytes make are those bytes (R18). -/
theorem le32_ofLE {bs : List Byte} (h : bs.length = 4) : le32 (ofLE bs) = bs := by
  refine List.ext_getElem (by rw [le32_length, h]) fun i hi hbs => ?_
  rw [← List.getD_eq_getElem _ 0#8 hi, ← List.getD_eq_getElem _ 0#8 hbs, le32_getD _ hi, extractLsb'_ofLE _ hi]

/-- The address of a block as a number and as bytes (R206). -/
theorem u32_eq_sentinel_iff {block : List Byte} (h : 4 ≤ block.length) :
    u32 block = Config.sentinel ↔ HasSentinel block := by
  have hbytes : le32 (u32 block) = block.take 4 := le32_ofLE (by rw [List.length_take, min_eq_left h])
  rw [← le32_injective.eq_iff, hbytes]
  rfl

theorem kindBit_eq {block : List Byte} (h : 4 ≤ block.length) :
    kindBit block = if HasSentinel block then 1#32 else 0#32 := by
  simp only [kindBit, u32_eq_sentinel_iff h]

/-- A number's low 16 bits are its two low bytes. -/
theorem extractLsb'_append_low_bytes {n : Nat} (hn : 16 ≤ n) (v : BitVec n) :
    v.extractLsb' 8 8 ++ v.extractLsb' 0 8 = v.setWidth 16 :=
  (BitVec.extractLsb'_append_extractLsb'_eq_extractLsb' (by rfl)).trans (BitVec.setWidth_eq_extractLsb' hn).symm

/-- The checksum field as a number and as bytes (R200). -/
theorem storedChecksum_eq (block : List Byte) : storedChecksum block = checksumField block := by
  have hbyte : ∀ i < 2, (ofLE ((block.drop 94).take 2)).extractLsb' (8 * i) 8 = block.getD (94 + i) 0#8 := by
    intro i hi
    rw [extractLsb'_ofLE _ (by omega)]
    simp [hi]
  rw [storedChecksum, u16, ← extractLsb'_append_low_bytes (by decide), checksumField, ← hbyte 0 (by decide),
    ← hbyte 1 (by decide)]

/-- The checksum test over built tables, as the spec states it (R203). -/
theorem checksumGood_build_iff (p : Params) (block : List Byte) :
    checksumGood p (Tables.build p) block = true
      ↔ crcSerial p (block.take 94) = checksumField block ^^^ 0x55AA#16 := by
  rw [checksumGood, beq_iff_eq, tableCrcEqualsBitSerialCrc, storedChecksum_eq]

/-- The checksum field stands behind the 94 bytes it covers. -/
theorem checksumField_append {head : List Byte} (hlen : head.length = 94) (v : Half) (rest : List Byte) :
    checksumField (head ++ le16 v ++ rest) = v := by
  have hlow : (head ++ le16 v ++ rest).getD 94 0#8 = v.extractLsb' 0 8 := by simp [le16, hlen]
  have hhigh : (head ++ le16 v ++ rest).getD 95 0#8 = v.extractLsb' 8 8 := by
    simp [le16, hlen, List.getElem?_append_right]
  rw [checksumField, hlow, hhigh, extractLsb'_append_low_bytes le_rfl, BitVec.setWidth_eq]

/-! ### Codewords -/

theorem isCodeword_zeros (p : Params) (necc n : Nat) : IsCodeword p necc (List.replicate n 0#8) := by
  intro i _
  induction n with
  | zero => rfl
  | succ n ih => rwa [List.replicate_succ, fieldEval, List.foldl_cons, fieldMul_zero_left, BitVec.xor_self]

/-! ### A formatted block -/

/-- The block around an address and a payload: behind them stand the masked checksum and the parity (R200 to R204). -/
def formattedBlock (p : Params) (T : Tables) (head : List Byte) : List Byte :=
  head ++ le16 (blockChecksum p T head) ++ blockParity p T (head ++ le16 (blockChecksum p T head))

theorem checksumField_formattedBlock (p : Params) (T : Tables) {head : List Byte} (hlen : head.length = 94) :
    checksumField (formattedBlock p T head) = blockChecksum p T head :=
  checksumField_append hlen _ _

/-- A formatted block is well formed: the mask cancels, and the parity completes a codeword (R205). -/
theorem isBlock_formattedBlock {p : Params} (hp : p.wellFormed = true) {head : List Byte} (hlen : head.length = 94) :
    IsBlock p (formattedBlock p (Tables.build p) head) where
  length := by simp [formattedBlock, blockParity, blockCodec, Config.neccBlk, hlen]
  checksum := by
    have htake : (formattedBlock p (Tables.build p) head).take 94 = head := by
      rw [formattedBlock, List.append_assoc, List.take_left' hlen]
    rw [checksumField_formattedBlock p _ hlen, htake, blockChecksum, tableCrcEqualsBitSerialCrc, BitVec.xor_assoc,
      BitVec.xor_self, BitVec.xor_zero]
  codeword := isCodeword_append_rsParity hp 32 _

section

variable (s : State) (base : Nat) (addr : Word)

/-- What building a block leaves at its offset is the formatted block (R220, R221). -/
theorem memRead_buildBlock :
    (s.buildBlock base addr).memRead base 128
      = formattedBlock s.params s.tables (le32 addr ++ s.memRead (base + 4) 90) := by
  have haddr : (s.memWrite base (le32 addr)).memRead base 4 = le32 addr := s.memRead_memWrite base (le32 addr)
  have hpayload : (s.memWrite base (le32 addr)).memRead (base + 4) 90 = s.memRead (base + 4) 90 :=
    s.memRead_memWrite_disjoint (.inr le_rfl)
  have hhead : ((s.memWrite base (le32 addr)).memWrite (base + 94) (s.blockTail base addr)).memRead base 94
      = (s.memWrite base (le32 addr)).memRead base 94 := State.memRead_memWrite_disjoint _ (.inl le_rfl)
  have htail := (s.memWrite base (le32 addr)).memRead_memWrite (base + 94) (s.blockTail base addr)
  rw [State.blockTail_length] at htail
  calc (s.buildBlock base addr).memRead base 128
      = ((s.memWrite base (le32 addr)).memWrite (base + 94) (s.blockTail base addr)).memRead base (94 + 34) := rfl
    _ = (s.memWrite base (le32 addr)).memRead base (4 + 90) ++ s.blockTail base addr := by
        rw [State.memRead_append, hhead, htail]
    _ = le32 addr ++ s.memRead (base + 4) 90 ++ s.blockTail base addr := by
        rw [State.memRead_append, haddr, hpayload]
    _ = formattedBlock s.params s.tables (le32 addr ++ s.memRead (base + 4) 90) := (List.append_assoc _ _ _).symm

theorem take_four_buildBlock : ((s.buildBlock base addr).memRead base 128).take 4 = le32 addr := by
  rw [memRead_buildBlock, formattedBlock, List.append_assoc, List.append_assoc, List.take_left' (le32_length addr)]

theorem hasSentinel_buildBlock_iff :
    HasSentinel ((s.buildBlock base addr).memRead base 128) ↔ addr = 0xFFFFFFFF#32 := by
  rw [HasSentinel, take_four_buildBlock]
  exact le32_injective.eq_iff (b := 0xFFFFFFFF#32)

theorem bufByte_buildBlock_address {i : Nat} (hi : i < 4) :
    (s.buildBlock base addr).bufByte (base + i) = addr.extractLsb' (8 * i) 8 := by
  rw [← le32_getD addr hi, ← take_four_buildBlock s base addr, ← State.memRead_getD (n := 128) _ (by omega),
    List.getD_eq_getElem?_getD, List.getD_eq_getElem?_getD, List.getElem?_take_of_lt hi]

theorem bufByte_buildBlock_between {a : Nat} (hhead : ¬ (base ≤ a ∧ a < base + 4))
    (htail : ¬ (base + 94 ≤ a ∧ a < base + 128)) : (s.buildBlock base addr).bufByte a = s.bufByte a :=
  bufByte_buildBlock addr (by omega) (by omega)

theorem isBlock_buildBlock (hs : s.Initialised) : IsBlock s.params ((s.buildBlock base addr).memRead base 128) := by
  obtain ⟨hp, htables⟩ := hs
  rw [memRead_buildBlock, htables]
  exact isBlock_formattedBlock hp (by simp)

/-- RESULT0 is the checksum that the block in BUF stores (R220). -/
theorem endsWith_buildBlock :
    EndsWith s (s.buildBlock base addr) .eNone
      ((checksumField ((s.buildBlock base addr).memRead base 128)).setWidth 32) 0#32 := by
  rw [memRead_buildBlock, checksumField_formattedBlock _ _ (by simp)]
  exact ⟨rfl, rfl, rfl, rfl, rfl, by constructor <;> rfl⟩

end

/-! ### The ends of the block commands -/

section

variable {s : State}

/-- BUILD_DATA on a block that fits, with a data address (R220). -/
theorem exec_buildData_of_fits (hfit : s.offset + 128 ≤ s.params.bufSize) (haddr : s.arg1 ≠ 0xFFFFFFFF#32) :
    exec .buildData s = .next (s.buildBlock s.offset s.arg1) :=
  congrArg _ ((if_pos ((s.spanFits_iff _ _).2 hfit)).trans (if_neg haddr))

/-- BUILD_DATA on a block that fits, with the sentinel as its address (R220). -/
theorem exec_buildData_of_sentinel (hfit : s.offset + 128 ≤ s.params.bufSize) (haddr : s.arg1 = 0xFFFFFFFF#32) :
    exec .buildData s = .next (s.endCommand .eArg 0#32 0#32) :=
  congrArg _ ((if_pos ((s.spanFits_iff _ _).2 hfit)).trans (if_pos haddr))

/-- BUILD_DATA on a block that reaches beyond BUF (R220, R246). -/
theorem exec_buildData_of_beyond (hbeyond : s.params.bufSize < s.offset + 128) :
    exec .buildData s = .next (s.endCommand .eRange 0#32 0#32) :=
  congrArg _ (if_neg (mt (s.spanFits_iff _ _).1 hbeyond.not_ge))

/-- BUILD_SUPER on a block that fits (R221). -/
theorem exec_buildSuper_of_fits (hfit : s.offset + 128 ≤ s.params.bufSize) :
    exec .buildSuper s = .next (s.buildBlock s.offset 0xFFFFFFFF#32) :=
  congrArg _ (if_pos ((s.spanFits_iff _ _).2 hfit))

/-- BUILD_SUPER on a block that reaches beyond BUF (R221, R246). -/
theorem exec_buildSuper_of_beyond (hbeyond : s.params.bufSize < s.offset + 128) :
    exec .buildSuper s = .next (s.endCommand .eRange 0#32 0#32) :=
  congrArg _ (if_neg (mt (s.spanFits_iff _ _).1 hbeyond.not_ge))

/-- BLOCK_KIND when the four address bytes fit (R223). -/
theorem exec_blockKind_of_fits (hfit : s.offset + 4 ≤ s.params.bufSize) :
    exec .blockKind s = .next (s.endCommand .eNone (kindBit (s.memRead s.offset 4)) 0#32) :=
  congrArg _ (if_pos ((s.spanFits_iff _ _).2 hfit))

/-- BLOCK_KIND when they do not (R223, R246). -/
theorem exec_blockKind_of_beyond (hbeyond : s.params.bufSize < s.offset + 4) :
    exec .blockKind s = .next (s.endCommand .eRange 0#32 0#32) :=
  congrArg _ (if_neg (mt (s.spanFits_iff _ _).1 hbeyond.not_ge))

/-- VERIFY on a block that fits ends by the result of the decoder, whatever CODEC_CFG holds (R107, R222). -/
theorem exec_verify_of_fits (hfit : s.offset + 128 ≤ s.params.bufSize) :
    exec .verify s = .next (s.endVerify (rsCorrect s.params s.tables 32 (s.memRead s.offset 128))) :=
  congrArg _ (if_pos ((s.spanFits_iff _ _).2 hfit))

/-- VERIFY on a block that reaches beyond BUF (R222, R246). -/
theorem exec_verify_of_beyond (hbeyond : s.params.bufSize < s.offset + 128) :
    exec .verify s = .next (s.endCommand .eRange 0#32 0#32) :=
  congrArg _ (if_neg (mt (s.spanFits_iff _ _).1 hbeyond.not_ge))

end

/-- RESULT1 of VERIFY holds the kind in bit 8 and the count below it (R209). -/
theorem verifyResult1_eq {block : List Byte} (hlen : 4 ≤ block.length) {w : Nat} (hw : w < 256) :
    kindBit block <<< 8 ||| BitVec.ofNat 32 w = BitVec.ofNat 32 ((if HasSentinel block then 256 else 0) + w) := by
  rw [kindBit_eq hlen]
  split_ifs
  · apply BitVec.eq_of_toNat_eq
    have hor := Nat.shiftLeft_add_eq_or_of_lt (i := 8) hw 1
    rw [BitVec.toNat_or, BitVec.toNat_ofNat, BitVec.toNat_ofNat, Nat.mod_eq_of_lt (by omega),
      Nat.mod_eq_of_lt (by omega)]
    exact hor.symm
  · simp

section

variable {s : State} (hs : s.Initialised) (hfit : s.offset + 128 ≤ s.params.bufSize)
include hs hfit

/-- VERIFY when a codeword lies within 16 bytes of the block: the decoder finds it (R209). -/
theorem exec_verify_of_close {c : List Byte} (hlen : c.length = 128) (hc : IsCodeword s.params 32 c)
    (hle : symbolErrors (s.memRead s.offset 128) c ≤ 16) :
    exec .verify s = .next (s.endVerify (some (c, symbolErrors (s.memRead s.offset 128) c))) := by
  obtain ⟨hp, htables⟩ := hs
  rw [exec_verify_of_fits hfit, htables,
    rsCorrect_of_symbolErrors_le hp (hlen.trans (s.memRead_length _ _).symm) (by simp) hc hle]

/-- VERIFY within 16 bytes of a well-formed block writes that block (R209). -/
theorem exec_verify_of_isBlock {c : List Byte} (hc : IsBlock s.params c)
    (hle : symbolErrors (s.memRead s.offset 128) c ≤ 16) :
    exec .verify s = .next ((s.memWrite s.offset c).endCommand .eNone
      (verifyOutcome (symbolErrors (s.memRead s.offset 128) c))
      (BitVec.ofNat 32 ((if HasSentinel c then 256 else 0) + symbolErrors (s.memRead s.offset 128) c))) := by
  obtain ⟨hlen, hcheck, hword⟩ := hc
  have hgood : checksumGood s.params s.tables c = true := by rw [hs.2]; exact (checksumGood_build_iff _ c).2 hcheck
  rw [exec_verify_of_close hs hfit hlen hword hle, ← verifyResult1_eq (by omega) (by omega)]
  exact congrArg _ (if_pos hgood)

/-- VERIFY within 16 bytes of a codeword with a bad checksum writes nothing (R209, R215). -/
theorem exec_verify_of_badChecksum {c : List Byte} (hlen : c.length = 128) (hc : IsCodeword s.params 32 c)
    (hle : symbolErrors (s.memRead s.offset 128) c ≤ 16)
    (hbad : crcSerial s.params (c.take 94) ≠ checksumField c ^^^ 0x55AA#16) :
    exec .verify s
      = .next (s.endCommand .eChecksum 4#32 (BitVec.ofNat 32 (symbolErrors (s.memRead s.offset 128) c))) := by
  have hnot : ¬ checksumGood s.params s.tables c = true := by rw [hs.2]; exact mt (checksumGood_build_iff _ c).1 hbad
  rw [exec_verify_of_close hs hfit hlen hc hle]
  exact congrArg _ (if_neg hnot)

/-- VERIFY with no codeword within 16 bytes (R209). -/
theorem exec_verify_of_far (hfar : ∀ c : List Byte, c.length = 128 → IsCodeword s.params 32 c →
      16 < symbolErrors (s.memRead s.offset 128) c) :
    exec .verify s = .next (s.endCommand .eUncorrectable 3#32 0#32) := by
  obtain ⟨hp, htables⟩ := hs
  have hnone := rsCorrect_eq_none_iff hp (necc := 32) (r := s.memRead s.offset 128) (by simp)
  rw [s.memRead_length] at hnone
  rw [exec_verify_of_fits hfit, htables, hnone.2 hfar]
  rfl

end

/-! ### What VERIFY leaves in BUF and RESULT1 -/

/-- A command that writes a span over with the bytes it held leaves BUF as it was. -/
theorem bufSame_memWrite_memRead (s : State) (a n : Nat) (e : ErrCode) (r0 r1 : Word) :
    BufSame s ((s.memWrite a (s.memRead a n)).endCommand e r0 r1) :=
  fun x => bufByte_memWrite_memRead s a n x

/-- Words of one length that differ nowhere are the same. -/
theorem eq_of_symbolErrors_eq_zero {r c : List Byte} (hlen : r.length = c.length) (h : symbolErrors r c = 0) : r = c :=
  eq_of_errorDegrees_eq_empty hlen (Finset.card_eq_zero.1 ((card_errorDegrees hlen).trans h))

/-- The two outcomes of a VERIFY that has written a block: with no byte wrong that block was there already (R209). -/
theorem intact_or_corrected {s : State} {c : List Byte} (hlen : c.length = 128) {w : Nat} {r1 : Word}
    (hw : symbolErrors (s.memRead s.offset 128) c = w) (hle : w ≤ 16) (hcount : r1.toNat % 256 = w) :
    (verifyOutcome w = 1#32 ∧ r1.extractLsb' 0 8 = 0#8
        ∧ BufSame s ((s.memWrite s.offset c).endCommand .eNone (verifyOutcome w) r1))
      ∨ (verifyOutcome w = 2#32 ∧ 1 ≤ r1.toNat % 256 ∧ r1.toNat % 256 ≤ 16) := by
  by_cases hzero : w = 0
  case pos =>
    obtain rfl := eq_of_symbolErrors_eq_zero ((s.memRead_length _ _).trans hlen.symm) (hw.trans hzero)
    refine .inl ⟨if_pos hzero, BitVec.eq_of_toNat_eq ?_, bufSame_memWrite_memRead s _ _ _ _ _⟩
    rw [BitVec.extractLsb'_toNat]
    exact hcount.trans hzero
  case neg => exact .inr ⟨if_neg hzero, by omega, by omega⟩

/-- What RESULT1 of VERIFY says of a count within the bound, field by field (R209). -/
theorem kind_and_count_of_result1 {kind : Prop} [Decidable kind] {w : Nat} (hw : w ≤ 16) :
    (BitVec.ofNat 32 ((if kind then 256 else 0) + w)).toNat / 256 = (if kind then 1 else 0)
      ∧ (BitVec.ofNat 32 ((if kind then 256 else 0) + w)).toNat % 256 = w := by
  rw [BitVec.toNat_ofNat]
  split_ifs <;> omega

/-! ### The statements -/

/-- Settles O51: the formatted block around the payload, or the first of the two checks that fails. -/
theorem buildDataCommandResult : Obligations.BuildDataCommandResult := by
  unfold Obligations.BuildDataCommandResult
  refine ⟨decodeWord_encode .buildData, fun s hs => ⟨fun hfit haddr => ?_, fun hbeyond => ?_, fun hfit haddr => ?_⟩⟩
  · exact ⟨_, exec_buildData_of_fits hfit haddr, endsWith_buildBlock s _ _, isBlock_buildBlock s _ _ hs,
      fun i hi => bufByte_buildBlock_address s _ _ hi,
      fun a hhead htail => bufByte_buildBlock_between s _ _ hhead htail⟩
  · exact ⟨_, exec_buildData_of_beyond hbeyond, EndsWith.endCommand s _ _ _, rfl⟩
  · exact ⟨_, exec_buildData_of_sentinel hfit haddr, EndsWith.endCommand s _ _ _, rfl⟩

/-- Settles O52: the same block with the sentinel as its address, each byte of which is 0xFF. -/
theorem buildSuperCommandResult : Obligations.BuildSuperCommandResult := by
  unfold Obligations.BuildSuperCommandResult
  refine ⟨decodeWord_encode .buildSuper, fun s hs => ⟨fun hfit => ?_, fun hbeyond => ?_⟩⟩
  · have hsentinel : ∀ i < 4, (0xFFFFFFFF#32).extractLsb' (8 * i) 8 = 0xFF#8 := by decide
    exact ⟨_, exec_buildSuper_of_fits hfit, endsWith_buildBlock s _ _, isBlock_buildBlock s _ _ hs,
      fun i hi => (bufByte_buildBlock_address s _ _ hi).trans (hsentinel i hi),
      fun a hhead htail => bufByte_buildBlock_between s _ _ hhead htail⟩
  · exact ⟨_, exec_buildSuper_of_beyond hbeyond, EndsWith.endCommand s _ _ _, rfl⟩

/-- Settles O53: a well-formed block lies 0 bytes from itself, and is written over itself. -/
theorem verifyReportsAnIntactBlock : Obligations.VerifyReportsAnIntactBlock := by
  unfold Obligations.VerifyReportsAnIntactBlock
  intro s hs hfit hblock
  have hself : symbolErrors (s.memRead s.offset 128) (s.memRead s.offset 128) = 0 := symbolErrors_self _
  have hexec := exec_verify_of_isBlock hs hfit hblock (by rw [hself]; decide)
  rw [hself, Nat.add_zero, apply_ite (BitVec.ofNat 32)] at hexec
  exact ⟨_, hexec, bufSame_memWrite_memRead s _ _ _ _ _, EndsWith.memWrite_endCommand s _ _ _ _ _⟩

/-- Settles O54: the decoder finds the well-formed block, and the count is not 0. -/
theorem verifyCorrectsUpToSixteenBytes : Obligations.VerifyCorrectsUpToSixteenBytes := by
  unfold Obligations.VerifyCorrectsUpToSixteenBytes
  intro s block hs hfit hblock hpos hle
  have hexec := exec_verify_of_isBlock hs hfit hblock hle
  rw [verifyOutcome, if_neg (Nat.one_le_iff_ne_zero.1 hpos)] at hexec
  exact ⟨_, hexec, EndsWith.memWrite_endCommand s _ _ _ _ _, memRead_written_word hblock.length,
    fun a ha => State.bufByte_memWrite_outside s (by rwa [hblock.length])⟩

/-- Settles O55: the decoder finds the codeword, and its checksum fails. -/
theorem verifyReportsAChecksumMismatch : Obligations.VerifyReportsAChecksumMismatch := by
  unfold Obligations.VerifyReportsAChecksumMismatch
  intro s c hs hfit hlen hc hle hbad
  exact ⟨_, exec_verify_of_badChecksum hs hfit hlen hc hle hbad, rfl, EndsWith.endCommand s _ _ _⟩

/-- Settles O56: out of BUF, near no codeword, near a well-formed block, near a codeword with a bad checksum. -/
theorem verifyHasFourOutcomes : Obligations.VerifyHasFourOutcomes := by
  unfold Obligations.VerifyHasFourOutcomes
  intro s hs
  by_cases hfit : s.offset + 128 ≤ s.params.bufSize
  case neg =>
    have hbeyond : s.params.bufSize < s.offset + 128 := not_le.1 hfit
    exact ⟨_, exec_verify_of_beyond hbeyond, SameBesideEnd.endCommand s _ _ _, fun _ _ => rfl,
      .inr (.inr (.inr ⟨rfl, hbeyond, rfl, rfl, rfl⟩)), iff_of_false nofun fun h => hfit h.1⟩
  by_cases hfar : ∀ c : List Byte, c.length = 128 → IsCodeword s.params 32 c →
      16 < symbolErrors (s.memRead s.offset 128) c
  case pos =>
    exact ⟨_, exec_verify_of_far hs hfit hfar, SameBesideEnd.endCommand s _ _ _, fun _ _ => rfl,
      .inr (.inl ⟨rfl, rfl, rfl, rfl⟩), iff_of_true rfl ⟨hfit, hfar⟩⟩
  have hclose := hfar
  push Not at hclose
  obtain ⟨c, hlen, hc, hle⟩ := hclose
  by_cases hcheck : crcSerial s.params (c.take 94) = checksumField c ^^^ 0x55AA#16
  case neg =>
    have hcount : (BitVec.ofNat 32 (symbolErrors (s.memRead s.offset 128) c)).toNat
        = symbolErrors (s.memRead s.offset 128) c := by
      rw [BitVec.toNat_ofNat]
      omega
    exact ⟨_, exec_verify_of_badChecksum hs hfit hlen hc hle hcheck, SameBesideEnd.endCommand s _ _ _,
      fun _ _ => rfl, .inr (.inr (.inl ⟨rfl, rfl, hcount.trans_le hle, rfl, c, hlen, hc, hcount.symm, hcheck⟩)),
      iff_of_false nofun fun h => hfar h.2⟩
  case pos =>
    obtain ⟨hkind, hcount⟩ := kind_and_count_of_result1 (kind := HasSentinel c) hle
    have hblock : IsBlock s.params c := ⟨hlen, hcheck, hc⟩
    refine ⟨_, exec_verify_of_isBlock hs hfit hblock hle, (EndsWith.memWrite_endCommand s _ _ _ _ _).same,
      fun a ha => State.bufByte_memWrite_outside s (by rwa [hlen]), .inl ⟨rfl, ?_⟩,
      iff_of_false nofun fun h => hfar h.2⟩
    rw [memRead_written_word hlen]
    refine ⟨hblock, intact_or_corrected hlen rfl hle hcount, hcount.symm, ?_, ?_⟩
    · rw [State.endCommand_result1, hkind]
      exact (ite_eq_or_eq _ _ _).symm
    · rw [State.endCommand_result1, hkind]
      simp

/-- Settles O57: what the builders leave in BUF is a well-formed block, whose address they were given. -/
theorem builtBlocksVerifyIntact : Obligations.BuiltBlocksVerifyIntact := by
  unfold Obligations.BuiltBlocksVerifyIntact
  intro s hs hfit
  have hverify : ∀ addr : Word, ∃ u, exec .verify (s.buildBlock s.offset addr) = .next u
      ∧ BufSame (s.buildBlock s.offset addr) u
      ∧ EndsWith (s.buildBlock s.offset addr) u .eNone 1#32 (if addr = 0xFFFFFFFF#32 then 0x100#32 else 0#32) := by
    intro addr
    simp only [← hasSentinel_buildBlock_iff s s.offset addr]
    exact verifyReportsAnIntactBlock _ hs hfit (isBlock_buildBlock s _ _ hs)
  refine ⟨fun haddr => ?_, ?_⟩
  · obtain ⟨u, hexec, hbuf, hends⟩ := hverify s.arg1
    rw [if_neg haddr] at hends
    exact ⟨_, u, exec_buildData_of_fits hfit haddr, hexec, hends, hbuf⟩
  · obtain ⟨u, hexec, hbuf, hends⟩ := hverify 0xFFFFFFFF#32
    exact ⟨_, u, exec_buildSuper_of_fits hfit, hexec, hends, hbuf⟩

/-- Settles O58: the zero checksum field stands for the CRC 0x55AA. -/
theorem allZeroBlockFailsUnlessCrcIsMask : Obligations.AllZeroBlockFailsUnlessCrcIsMask := by
  unfold Obligations.AllZeroBlockFailsUnlessCrcIsMask
  intro s hs hfit hzero
  have hword : IsCodeword s.params 32 (s.memRead s.offset 128) := hzero ▸ isCodeword_zeros _ _ _
  have hfield : checksumField (s.memRead s.offset 128) ^^^ 0x55AA#16 = 0x55AA#16 := by
    rw [hzero]
    decide
  have hcrc : crcSerial s.params ((s.memRead s.offset 128).take 94) = crcSerial s.params (List.replicate 94 0#8) := by
    rw [hzero, List.take_replicate]
    rfl
  split_ifs with hmask
  · have hblock : IsBlock s.params (s.memRead s.offset 128) :=
      ⟨s.memRead_length _ _, by rw [hcrc, hmask, hfield], hword⟩
    obtain ⟨t, hexec, -, hends⟩ := verifyReportsAnIntactBlock s hs hfit hblock
    rw [if_neg (by rw [hzero]; decide)] at hends
    exact ⟨t, hexec, hends⟩
  · have hself : symbolErrors (s.memRead s.offset 128) (s.memRead s.offset 128) = 0 := symbolErrors_self _
    obtain ⟨t, hexec, -, hends⟩ := verifyReportsAChecksumMismatch s _ hs hfit (s.memRead_length _ _) hword
      (by rw [hself]; decide) (by rwa [hcrc, hfield])
    rw [hself] at hends
    exact ⟨t, hexec, hends⟩

/-- Settles O59: the kind bit of four address bytes. -/
theorem blockKindCommandResult : Obligations.BlockKindCommandResult := by
  unfold Obligations.BlockKindCommandResult
  refine ⟨decodeWord_encode .blockKind, fun s => ⟨fun hfit => ?_, fun hbeyond => ?_⟩⟩
  · rw [← kindBit_eq (s.memRead_length _ _).ge]
    exact ⟨_, exec_blockKind_of_fits hfit, rfl, EndsWith.endCommand s _ _ _⟩
  · exact ⟨_, exec_blockKind_of_beyond hbeyond, rfl, EndsWith.endCommand s _ _ _⟩

end Sys2Proof.Machine

/-! PROOFS. The statements about errors: the checks a command goes through before it executes, in their order (R244),
and how each command ends by the first that fails. -/

namespace Sys2Proof.Machine

/-! ### The checks before a command executes -/

/-- The configuration check fails: CODEC_CFG is invalid and the command uses it (R245). -/
def ConfigFails (s : State) : Instr → Prop
  | .rsEncode | .rsDecode => ¬ s.codec.valid = true
  | .crc16 | .gfMul | .gfDiv | .polyEval | .buildData | .buildSuper | .verify | .blockKind => False

/-- The range check fails: the command's span does not fit in BUF (R246). -/
def RangeFails (s : State) : Instr → Prop
  | .crc16 | .polyEval => ¬ s.spanFits s.offset s.length = true
  | .rsEncode | .rsDecode => ¬ s.spanFits s.offset s.codec.wordLen = true
  | .buildData | .buildSuper | .verify => ¬ s.spanFits s.offset Config.blockSize = true
  | .blockKind => ¬ s.spanFits s.offset 4 = true
  | .gfMul | .gfDiv => False

/-- The argument check fails: the operation does not define the value of ARG1 (R247). -/
def ArgFails (s : State) : Instr → Prop
  | .gfDiv => byteOperand s.arg1 = 0#8
  | .buildData => s.arg1 = Config.sentinel
  | .crc16 | .gfMul | .polyEval | .rsEncode | .rsDecode | .buildSuper | .verify | .blockKind => False

theorem State.spanFits_eq_false_iff (s : State) (off len : Nat) :
    s.spanFits off len = false ↔ s.params.bufSize < off + len := by
  rw [← Bool.not_eq_true, State.spanFits_iff, not_le]

theorem configFails_iff (s : State) (i : Instr) :
    ConfigFails s i ↔ (i = .rsEncode ∨ i = .rsDecode) ∧ s.codec.valid = false := by
  cases i <;> simp [ConfigFails]

/-- The table of R246. -/
theorem rangeFails_iff (s : State) (i : Instr) :
    RangeFails s i ↔ ((i = .crc16 ∨ i = .polyEval) ∧ s.params.bufSize < s.offset + s.length)
      ∨ ((i = .rsEncode ∨ i = .rsDecode) ∧ s.params.bufSize < s.offset + s.codec.wordLen)
      ∨ ((i = .buildData ∨ i = .buildSuper ∨ i = .verify) ∧ s.params.bufSize < s.offset + 128)
      ∨ (i = .blockKind ∧ s.params.bufSize < s.offset + 4) := by
  cases i <;> simp [RangeFails, State.spanFits_eq_false_iff]

theorem argFails_iff (s : State) (i : Instr) :
    ArgFails s i ↔ (i = .gfDiv ∧ byteOperand s.arg1 = 0#8) ∨ (i = .buildData ∧ s.arg1 = 0xFFFFFFFF#32) := by
  cases i <;> simp [ArgFails]

/-! ### How a command ends by its checks -/

/-- The end of a command that has passed its checks: it completes, or the decoder has failed, or VERIFY has decoded a
block whose checksum is bad (R209, R248, R249). -/
inductive ExecutedEnd (s : State) : Instr → State → Prop
  | completed {i : Instr} {t : State} (h : t.err = .eNone) : ExecutedEnd s i t
  | wordUncorrectable : ExecutedEnd s .rsDecode (s.raise .eUncorrectable)
  | blockUncorrectable : ExecutedEnd s .verify (s.raiseWith .eUncorrectable 3#32 0#32)
  | badChecksum {w : Nat} (h : w ≤ 16) : ExecutedEnd s .verify (s.raiseWith .eChecksum 4#32 (BitVec.ofNat 32 w))

/-- The end of a command by the first of its checks that fails (R244). -/
inductive CheckedEnd (s : State) (i : Instr) (t : State) : Prop
  | config (hc : ConfigFails s i) (ht : t = s.raise .eConfig)
  | range (hc : ¬ ConfigFails s i) (hr : RangeFails s i) (ht : t = s.raise .eRange)
  | argument (hc : ¬ ConfigFails s i) (hr : ¬ RangeFails s i) (ha : ArgFails s i) (ht : t = s.raise .eArg)
  | executed (hc : ¬ ConfigFails s i) (hr : ¬ RangeFails s i) (ha : ¬ ArgFails s i) (ht : ExecutedEnd s i t)

theorem ExecutedEnd.decode (s : State) (res : Option (List Byte × Nat)) :
    ExecutedEnd s .rsDecode (s.endDecode res) :=
  match res with
  | none => .wordUncorrectable
  | some _ => .completed rfl

/-- VERIFY reports no more than 16 corrections, the correction bound of the block code (R209). -/
theorem ExecutedEnd.verify {s : State} {p : Params} {T : Tables} {r : List Byte} :
    ExecutedEnd s .verify (s.endVerify (rsCorrect p T blockCodec.necc r)) := by
  unfold State.endVerify
  split
  · exact .blockUncorrectable
  next hres =>
    split
    · exact .completed rfl
    · exact .badChecksum (rsCorrect_count_le hres)

section

variable {s t : State} {i : Instr} {c : Prop} [Decidable c]

theorem CheckedEnd.ite_config (hcfg : ConfigFails s i ↔ ¬ c) (h : c → CheckedEnd s i t) :
    CheckedEnd s i (if c then t else s.raise .eConfig) :=
  iteInduction (motive := CheckedEnd s i) h fun hnot => .config (hcfg.2 hnot) rfl

theorem CheckedEnd.ite_range (hc : ¬ ConfigFails s i) (hrange : RangeFails s i ↔ ¬ c) (h : c → CheckedEnd s i t) :
    CheckedEnd s i (if c then t else s.raise .eRange) :=
  iteInduction (motive := CheckedEnd s i) h fun hnot => .range hc (hrange.2 hnot) rfl

theorem CheckedEnd.ite_argument (hc : ¬ ConfigFails s i) (hr : ¬ RangeFails s i) (harg : ArgFails s i ↔ c)
    (h : ExecutedEnd s i t) : CheckedEnd s i (if c then s.raise .eArg else t) :=
  iteInduction (motive := CheckedEnd s i) (fun hyes => .argument hc hr (harg.2 hyes) rfl)
    fun hnot => .executed hc hr (mt harg.1 hnot) h

end

/-- Every command goes through its checks in the order configuration, range, argument, and then executes (R244). -/
theorem exec_checkedEnd (i : Instr) (s : State) : ∃ t, exec i s = .next t ∧ CheckedEnd s i t :=
  match i with
  | .gfMul => ⟨_, rfl, .executed id id id (.completed rfl)⟩
  | .gfDiv => ⟨_, rfl, .ite_argument id id .rfl (.completed rfl)⟩
  | .crc16 | .polyEval | .buildSuper | .blockKind =>
    ⟨_, rfl, .ite_range id .rfl fun hfit => .executed id (not_not_intro hfit) id (.completed rfl)⟩
  | .rsEncode =>
    ⟨_, rfl, .ite_config .rfl fun hv => .ite_range (not_not_intro hv) .rfl fun hfit =>
      .executed (not_not_intro hv) (not_not_intro hfit) id (.completed rfl)⟩
  | .rsDecode =>
    ⟨_, rfl, .ite_config .rfl fun hv => .ite_range (not_not_intro hv) .rfl fun hfit =>
      .executed (not_not_intro hv) (not_not_intro hfit) id (.decode s _)⟩
  | .buildData =>
    ⟨_, rfl, .ite_range id .rfl fun hfit => .ite_argument id (not_not_intro hfit) .rfl (.completed rfl)⟩
  | .verify => ⟨_, rfl, .ite_range id .rfl fun hfit => .executed id (not_not_intro hfit) id .verify⟩

theorem checkedEnd_of_exec {i : Instr} {s t : State} (h : exec i s = .next t) : CheckedEnd s i t := by
  obtain ⟨u, hu, hend⟩ := exec_checkedEnd i s
  obtain rfl : u = t := by injection hu.symm.trans h
  exact hend

/-! ### What an error leaves, and which error it is -/

theorem CommandEnd.sameBesideEnd {s t : State} (h : CommandEnd s t) : SameBesideEnd s t := by
  obtain ⟨m, e, r0, r1, rfl⟩ := h
  constructor <;> rfl

theorem CommandEnd.busy_done {s t : State} (h : CommandEnd s t) : t.busy = false ∧ t.done = true := by
  obtain ⟨m, e, r0, r1, rfl⟩ := h
  exact ⟨rfl, rfl⟩

/-- What a command that ends with an error leaves: BUF as it was, and the results of `raise` or of VERIFY (R209,
R250). -/
def ErrorLeaves (s : State) (i : Instr) (t : State) : Prop :=
  BufSame s t
    ∧ ((t.result0 = 0#32 ∧ t.result1 = 0#32)
      ∨ (i = .verify ∧ t.err = .eUncorrectable ∧ t.result0 = 3#32 ∧ t.result1 = 0#32)
      ∨ (i = .verify ∧ t.err = .eChecksum ∧ t.result0 = 4#32 ∧ t.result1.toNat ≤ 16))

section

variable {s t : State} {i : Instr}

theorem ErrorLeaves.raise (s : State) (i : Instr) (e : ErrCode) : ErrorLeaves s i (s.raise e) :=
  ⟨BufSame.endCommand s _ _ _, .inl ⟨rfl, rfl⟩⟩

theorem ExecutedEnd.errorLeaves (h : ExecutedEnd s i t) (herr : t.err ≠ .eNone) : ErrorLeaves s i t := by
  cases h with
  | completed hnone => exact absurd hnone herr
  | wordUncorrectable => exact .raise s _ _
  | blockUncorrectable => exact ⟨BufSame.endCommand s _ _ _, .inr (.inl ⟨rfl, rfl, rfl, rfl⟩)⟩
  | badChecksum hw =>
    exact ⟨BufSame.endCommand s _ _ _, .inr (.inr ⟨rfl, rfl, rfl, (Nat.mod_le _ _).trans hw⟩)⟩

theorem CheckedEnd.errorLeaves (h : CheckedEnd s i t) (herr : t.err ≠ .eNone) : ErrorLeaves s i t := by
  cases h with
  | config _ ht | range _ _ ht | argument _ _ _ ht => exact ht ▸ .raise s i _
  | executed _ _ _ ht => exact ht.errorLeaves herr

/-- The errors of the execution itself, and the commands that report them (R248). -/
theorem ExecutedEnd.err_cases (h : ExecutedEnd s i t) :
    t.err = .eNone ∨ (t.err = .eUncorrectable ∧ (i = .rsDecode ∨ i = .verify))
      ∨ (t.err = .eChecksum ∧ i = .verify) := by
  cases h with
  | completed hnone => exact .inl hnone
  | wordUncorrectable => exact .inr (.inl ⟨rfl, .inl rfl⟩)
  | blockUncorrectable => exact .inr (.inl ⟨rfl, .inr rfl⟩)
  | badChecksum => exact .inr (.inr ⟨rfl, rfl⟩)

/-- Which error a command reports, by its checks (R244). -/
theorem CheckedEnd.err_iff (h : CheckedEnd s i t) :
    (t.err = .eConfig ↔ ConfigFails s i) ∧ (t.err = .eRange ↔ ¬ ConfigFails s i ∧ RangeFails s i)
      ∧ (t.err = .eArg ↔ ¬ ConfigFails s i ∧ ¬ RangeFails s i ∧ ArgFails s i)
      ∧ t.err ≠ .eNotReady ∧ t.err ≠ .eBadOpcode
      ∧ (t.err = .eUncorrectable → i = .rsDecode ∨ i = .verify) ∧ (t.err = .eChecksum → i = .verify) := by
  cases h with
  | config hc ht => simp [ht, hc]
  | range hc hr ht => simp [ht, hc, hr]
  | argument hc hr ha ht => simp [ht, hc, hr, ha]
  | executed hc hr ha ht =>
    rcases ht.err_cases with he | ⟨he, hi⟩ | ⟨he, rfl⟩
    · simp [he, hc, hr, ha]
    · simp [he, hc, hr, ha, hi]
    · simp [he, hc, hr, ha]

end

/-! ### The statements -/

/-- Settles O34: every command ends in the one form of `CommandEnd`, and every error is a `raise` of the state whose BUF
no write has reached. -/
theorem everyCommandEnds : Obligations.EveryCommandEnds := by
  unfold Obligations.EveryCommandEnds
  intro i s
  obtain ⟨t, hexec, hend⟩ := exec_commandEnd i s
  obtain ⟨hbusy, hdone⟩ := hend.busy_done
  exact ⟨t, hexec, hbusy, hdone, hend.sameBesideEnd, (checkedEnd_of_exec hexec).errorLeaves⟩

/-- Settles O35: a command ends by the first of its checks that fails. -/
theorem errorsAreReportedInCheckOrder : Obligations.ErrorsAreReportedInCheckOrder := by
  unfold Obligations.ErrorsAreReportedInCheckOrder
  intro i s t hexec cfgFails rangeFails argFails
  have herr := (checkedEnd_of_exec hexec).err_iff
  rw [configFails_iff, rangeFails_iff, argFails_iff] at herr
  exact herr

end Sys2Proof.Machine

/-! PROOFS. The statements about resets at any time, and about the engine before READY and with nothing left to do. -/

namespace Sys2Proof.Machine

/-! ### The soft reset and the aborted command -/

theorem State.mem_regionOffsets_iff (s : State) (a : Nat) :
    a ∈ s.regionOffsets ↔ a < s.params.bufSize ∧ s.inWriteRegion a = true := by
  simp [State.regionOffsets]

/-- An abort draws the write region afresh, at the offsets that BUF has, and keeps every other byte (R273). -/
theorem State.bufByte_abortPending (s : State) (a : Nat) :
    s.abortPending.bufByte a
      = if a < s.params.bufSize ∧ s.inWriteRegion a = true then Config.freeByte (s.draws + a) else s.bufByte a := by
  simp only [State.bufByte, State.abortPending_mem, State.abortPending_bufDraw, Memory.lookup_storeDraws,
    State.mem_regionOffsets_iff]
  split_ifs <;> rfl

@[simp] theorem State.bufByte_resetRegisters (s : State) (a : Nat) : s.resetRegisters.bufByte a = s.bufByte a := rfl

theorem State.softReset_of_busy {s : State} (hb : s.busy = true) : s.softReset = s.abortPending.resetRegisters :=
  if_pos hb

theorem State.softReset_of_idle {s : State} (hb : s.busy = false) : s.softReset = s.resetRegisters :=
  if_neg (by simp [hb])

/-- The registers, flags and tables after a soft reset do not depend on whether a command was pending (R272). -/
theorem State.softReset_eq (s : State) :
    s.softReset = { s.resetRegisters with mem := s.softReset.mem, draws := s.softReset.draws } := by
  unfold State.softReset
  split <;> rfl

theorem State.softReset_draws_of_busy {s : State} (hb : s.busy = true) :
    s.softReset.draws = s.draws + s.params.bufSize := by rw [State.softReset_of_busy hb]; rfl

theorem State.softReset_draws_of_idle {s : State} (hb : s.busy = false) : s.softReset.draws = s.draws := by
  rw [State.softReset_of_idle hb]; rfl

theorem State.bufByte_softReset (s : State) {a : Nat} (ha : a < s.params.bufSize) :
    s.softReset.bufByte a
      = if s.busy = true ∧ s.inWriteRegion a = true then Config.freeByte (s.draws + a) else s.bufByte a := by
  cases hb : s.busy
  · simp [State.softReset_of_idle hb]
  · simp [State.softReset_of_busy hb, State.bufByte_abortPending, ha]

theorem step_softReset {s : State} {v : Word} (hhead : s.script.head? = some (.write .w32 0x008 v))
    (hv : v.getLsbD 0 = true) : step s = .next s.popTurn.softReset := by
  rw [step_write_offset (r := .ctrl) hhead]
  exact congrArg _ (writeCtrl_of_srst _ hv)

/-- Settles O3: the fields come from `State.softReset_eq`, the bytes from what an abort draws. -/
theorem softResetKeepsBufOutsideAbortedRegion : Obligations.SoftResetKeepsBufOutsideAbortedRegion := by
  unfold Obligations.SoftResetKeepsBufOutsideAbortedRegion
  intro s v hhead hv
  have hstep := step_softReset hhead hv
  rw [State.softReset_eq] at hstep
  refine ⟨_, hstep, rfl, rfl, rfl, rfl, rfl, rfl, rfl, rfl, rfl, rfl, rfl, rfl, rfl, rfl, rfl, rfl, rfl,
    fun a ha => ?_, State.softReset_draws_of_idle (s := s.popTurn), State.softReset_draws_of_busy (s := s.popTurn)⟩
  rw [← State.softReset_eq]
  exact s.popTurn.bufByte_softReset ha

/-! ### Host writes before READY -/

theorem writeCmd_notReady {s : State} (hr : s.ready = false) (hb : s.busy = false) (v : Word) :
    s.writeCmd v = s.rejectNotReady := by
  simp [State.writeCmd, hr, hb]

/-- Settles O8: only CMD looks at READY; the operands are those of an idle write, whatever READY is. -/
theorem cmdBeforeReadyIsRejected : Obligations.CmdBeforeReadyIsRejected := by
  unfold Obligations.CmdBeforeReadyIsRejected
  intro s v hr hb
  refine ⟨fun hhead => ?_, fun hhead => ?_, fun hhead => ?_, fun hhead => ?_, fun hhead => ?_,
    fun w a hhead hal hin hwin => ?_⟩
  · rw [step_write_offset (r := .cmd) hhead]
    exact congrArg _ (writeCmd_notReady (s := s.popTurn) hr hb v)
  · exact idleRegisterWritesAreStored s 0x014 v hhead hb (by decide)
  · exact idleRegisterWritesAreStored s 0x018 v hhead hb (by decide)
  · exact idleRegisterWritesAreStored s 0x01C v hhead hb (by decide)
  · exact idleRegisterWritesAreStored s 0x020 v hhead hb (by decide)
  · exact (bufWindowIsLittleEndian s w a v hb hal hin hwin).1 hhead

/-! ### The engine's turns: initialisation, and progress to quiescence -/

theorem step_notReady {s : State} (hr : s.ready = false) (hn : s.engineNext) :
    step s = .next s.popTurn.initTables :=
  (step_of_engineNext hn).trans (engineTurn_notReady (s := s.popTurn) hr)

/-- Settles O5: initialisation is the engine's only turn while READY is 0. -/
theorem initialisationStep : Obligations.InitialisationStep := by
  unfold Obligations.InitialisationStep
  intro s hr hn
  exact step_notReady hr hn

/-- With no turn waiting, a step of the ready engine leaves it idle: it ends the pending command, if there is one. -/
theorem step_ready_of_empty {s : State} (hs : s.script = []) (hr : s.ready = true) :
    ∃ t, step s = .next t ∧ t.script = [] ∧ t.ready = true ∧ t.busy = false := by
  have hpop : s.popTurn.script = [] := by simp [hs]
  rw [step_of_empty hs]
  rcases engineTurn_cases s.popTurn with ⟨hnot, -⟩ | ⟨-, -, t, hturn, m, e, r0, r1, rfl⟩ | ⟨-, hb, hturn⟩
  · cases hr.symm.trans hnot
  · exact ⟨_, hturn, hpop, hr, rfl⟩
  · exact ⟨_, hturn, hpop, hr, hb⟩

/-- Settles O12: one step makes the engine ready, if it was not, and one step leaves a ready engine idle. -/
theorem engineBecomesQuiescent : Obligations.EngineBecomesQuiescent := by
  unfold Obligations.EngineBecomesQuiescent
  refine ⟨fun s hs => ?_, fun s hn hr hb => (step_of_engineNext hn).trans (engineTurn_idle (s := s.popTurn) hr hb)⟩
  obtain ⟨t, hstep, hts, htr⟩ : ∃ t, step s = .next t ∧ t.script = [] ∧ t.ready = true := by
    cases hr : s.ready with
    | false =>
      exact ⟨_, step_notReady hr (by simp [State.engineNext, hs]), by simp [hs], rfl⟩
    | true =>
      obtain ⟨t, hstep, hts, htr, -⟩ := step_ready_of_empty hs hr
      exact ⟨t, hstep, hts, htr⟩
  obtain ⟨u, hstep', hquiescent⟩ := step_ready_of_empty hts htr
  exact ⟨t, u, hstep, hstep', hquiescent⟩

/-! ### The hard reset -/

theorem State.bufByte_hardReset (s : State) (a : Nat) : s.hardReset.bufByte a = Config.freeByte (s.draws + a) := rfl

/-- Settles O2: a hard reset keeps the parameters, the turns to come and the last bus value, and leaves BUF with no byte
stored. -/
theorem hardResetAtAnyTime : Obligations.HardResetAtAnyTime := by
  unfold Obligations.HardResetAtAnyTime
  intro s hhead
  exact ⟨s.popTurn.hardReset, step_of_head hhead, rfl, s.popTurn.bufByte_hardReset⟩

end Sys2Proof.Machine
